-- ==== Sys2Proof/Word.lean ====
section
/-! DEFINITION. The widths of the block's values (00_scope.md R4). -/

namespace Sys2Proof

/-- A polynomial, operand, result or bus word: 32 bits, bit `k` the coefficient of `x^k` (R4, R5). -/
abbrev Word := BitVec 32

/-- A data byte (00_scope.md section 3, `BYTE`). -/
abbrev Byte := BitVec 8

/-- The accumulator and every table entry: 24 bits (R4, `CRC_W`). -/
abbrev Crc := BitVec 24

end Sys2Proof
end

