-- ==== Sys2Proof/Syntax.lean ====
section
/-! DEFINITION. The eleven commands of 30_encoding.md R44, one constructor per row of
spec/opcode_table.json. No command has an operand in its word (R43). -/

namespace Sys2Proof

/-- A command of CRC24Q-CMD version 1. -/
inductive Instr where
  /-- PBIT: set one coefficient of a polynomial (R51). -/
  | pbit
  /-- DEGREE: the degree of a polynomial (R53). -/
  | degree
  /-- PMUL: multiply two polynomials modulo `x^32` (R55). -/
  | pmul
  /-- DIVREM: quotient and remainder (R58). -/
  | divrem
  /-- PREM: remainder alone (R59). -/
  | prem
  /-- TREAD: read a table entry (R64). -/
  | tread
  /-- CCLR: clear the accumulator (R65). -/
  | cclr
  /-- CFOLD: fold one byte into the accumulator (R67). -/
  | cfold
  /-- HIGHB: bits 23:16 (R71). -/
  | highb
  /-- MIDB: bits 15:8 (R72). -/
  | midb
  /-- LOWB: bits 7:0 (R73). -/
  | lowb
  deriving DecidableEq, Repr

/-- The eleven commands, in the table's order. -/
def Instr.all : List Instr :=
  [.pbit, .degree, .pmul, .divrem, .prem, .tread, .cclr, .cfold, .highb, .midb, .lowb]

end Sys2Proof
end

