-- ==== Sys2Proof/Config.lean ====
section
/-! DEFINITION. The hardwired constants (10_state.md R18), the fixed parameters of 00_scope.md
section 3, and the one parameter the platform assigns. -/

namespace Sys2Proof.Config

/-- The generator polynomial `G` (R2, R18). -/
def gen : Word := 0x01864CFB

/-- `DEG_G`, the degree of the generator (R18). -/
def genDegree : Nat := 24

/-- `MASK = 2^24 - 1` (R18). -/
def mask : Word := 0x00FFFFFF

/-- `TABLE_N`: the number of table entries (R17). -/
abbrev tableSize : Nat := 256

/-- `WINDOW`: the register window's size in bytes (R24). -/
abbrev window : Nat := 32

/-- `BASE`: the bus address of the register window, OPEN (R24, U10), so it has no value here. Log 7. -/
opaque base : Nat

end Sys2Proof.Config
end

