-- ==== Sys2Proof/Machine/HostProgram.lean ====
section
/-! DEFINITION. What the host can do: the lines of a host program (30_encoding.md R48), the raw bus
access (20_memory.md R27), reset (70 R91), and the pseudo-commands of R49 with their expansions. -/

namespace Sys2Proof.Machine

/-- The words of the register window, in offset order (20_memory.md R25). -/
inductive BusReg where
  | opa | opb | cmd | res0 | res1 | crc | status | reserved
  deriving DecidableEq, Repr

/-- A host name, as `->` keeps it (R48). -/
abbrev HostName := List Char

/-- What stands where an immediate may stand (R48). -/
inductive Operand where
  /-- A 32-bit immediate. -/
  | imm (v : Word)
  /-- A name kept by an earlier line. -/
  | name (n : HostName)
  deriving DecidableEq, Repr

/-- One bus access of any size at any bus address (R27): a write of `data`, or a read. -/
structure Access where
  size : Nat
  addr : Nat
  data : Option Word
  deriving DecidableEq, Repr

/-- One line of a host program (R48), or one of the host's other acts. -/
inductive Line where
  /-- `wr OPA, v`. -/
  | wrOpa (v : Operand)
  /-- `wr OPB, v`. -/
  | wrOpb (v : Operand)
  /-- `wr CMD, v`: issue any command word. -/
  | wrCmd (v : Operand)
  /-- `<MNEMONIC>`: issue a command by its word of R44. -/
  | command (i : Instr)
  /-- `rd <REG>`. -/
  | rd (r : BusReg)
  /-- `rd <REG> -> <name>`. -/
  | rdTo (r : BusReg) (n : HostName)
  /-- `expect <REG> == v`. -/
  | expect (r : BusReg) (v : Operand)
  /-- A bus access written out by size and address, admitted or not (R27). -/
  | access (a : Access)
  /-- The host's own `n := v` of R49's CONSTRUCT, no access. Log 13. -/
  | assign (n : HostName) (v : Word)
  /-- The host applies reset (R91, R96). Log 12. -/
  | reset
  deriving DecidableEq, Repr

/-- The pseudo-commands of R49, with the host names their results go to. -/
inductive Pseudo where
  /-- `HASH d[0], ..., d[n-1]`: bytes, each an immediate or a kept name. -/
  | hash (data : List Operand) (h : HostName)
  /-- `CONSTRUCT` of a list of bit positions, each an immediate or a kept name. -/
  | construct (positions : List Operand) (p : HostName)
  /-- `REMAINDER t, b`. -/
  | remainder (t b : Operand) (r : HostName)
  /-- `FRAME h`. -/
  | frame (h : Operand) (hi mid lo : HostName)
  deriving DecidableEq, Repr

/-- The loop of HASH: one `wr OPA` and one CFOLD a byte (R49). DESIGN CHOICE (log 21): R49 gives no
meaning to a name whose value is no byte; its whole word is written to OPA, and CFOLD takes the low
byte. -/
def foldLines : List Operand → List Line
  | [] => []
  | d :: ds => .wrOpa d :: .command .cfold :: foldLines ds

/-- The loop of CONSTRUCT (R49). DESIGN CHOICE (log 23): a position named `p` has the value `p` has at
that line, as the expansion reads. -/
def constructLines (p : HostName) : List Operand → List Line
  | [] => []
  | b :: bs =>
    .wrOpa (.name p) :: .wrOpb b :: .command .pbit :: .rdTo .res0 p :: constructLines p bs

/-- The expansion of a pseudo-command (R49). -/
def expand : Pseudo → List Line
  | .hash data h => .command .cclr :: (foldLines data ++ [.rdTo .crc h])
  | .construct positions p => .assign p 0 :: constructLines p positions
  | .remainder t b r => [.wrOpa t, .wrOpb b, .command .prem, .rdTo .res0 r]
  | .frame h hi mid lo =>
    [.wrOpa h, .command .highb, .rdTo .res0 hi, .command .midb, .rdTo .res0 mid,
     .command .lowb, .rdTo .res0 lo]

end Sys2Proof.Machine
end

