-- ==== Sys2Proof/WellFormed.lean ====
section
/-! DEFINITION. What it takes for a command and for a host program to be well formed. -/

namespace Sys2Proof

/-- A command has no operand in its word (30_encoding.md R43), so there is nothing to check: every
command is well formed. -/
def Instr.wf : Instr → Bool
  | .pbit | .degree | .pmul | .divrem | .prem => true
  | .tread | .cclr | .cfold => true
  | .highb | .midb | .lowb => true

namespace Machine

/-- An operand's name has been kept by an earlier line (R48). -/
def Operand.bound (names : List HostName) : Operand → Bool
  | .imm _ => true
  | .name n => names.contains n

/-- The register is one that `rd` and `expect` may name (R48): every one but the reserved word. -/
def BusReg.named : BusReg → Bool
  | .opa | .opb | .cmd | .res0 | .res1 | .crc | .status => true
  | .reserved => false

/-- A line uses only names kept before it, and `rd` and `expect` name a register of R48. -/
def Line.wf (names : List HostName) : Line → Bool
  | .wrOpa v | .wrOpb v | .wrCmd v => v.bound names
  | .command i => i.wf
  | .rd r | .rdTo r _ => r.named
  | .expect r v => r.named && v.bound names
  | .access _ | .assign _ _ | .reset => true

/-- The names a line leaves kept. -/
def Line.binds (names : List HostName) : Line → List HostName
  | .rdTo _ n | .assign n _ => n :: names
  | _ => names

/-- A host program, started with `names` kept, is well formed line by line (R48). -/
def programWf (names : List HostName) : List Line → Bool
  | [] => true
  | l :: rest => l.wf names && programWf (l.binds names) rest

/-- A data operand of HASH is a byte: an immediate below 256, or a name (R49). DESIGN CHOICE (log 21):
a name's value is not known before the program runs, so any name is let through. -/
def Operand.isByte : Operand → Bool
  | .imm v => v.toNat < 256
  | .name _ => true

/-- A position operand of CONSTRUCT: an immediate below 32, or a name (R49). DESIGN CHOICE (log 23): a
name's value is not known before the program runs; at 32 or more PBIT faults OperandRange (R51). -/
def Operand.isPosition : Operand → Bool
  | .imm v => v.toNat < 32
  | .name _ => true

/-- R49's side conditions: bytes for HASH, bit positions below 32 for CONSTRUCT. -/
def Pseudo.wf (names : List HostName) : Pseudo → Bool
  | .hash data _ => data.all fun d => d.isByte && d.bound names
  | .construct positions p => positions.all fun b => b.isPosition && b.bound (p :: names)
  | .remainder t b _ => t.bound names && b.bound names
  | .frame h _ _ _ => h.bound names

end Machine
end Sys2Proof
end

