-- ==== Sys2Proof/Decode.lean ====
section
/-! DEFINITION. The command word `CMD32` (30_encoding.md R41), its decoder (R42, R45) and encoder
(R44). -/

namespace Sys2Proof

/-- Why a word is no command (R45); either way the core raises IllegalCommand (R81). -/
inductive DecodeError where
  /-- `RSV`, bits 31:8, is not zero. -/
  | reservedNotZero
  /-- `RSV` is zero and `OPC` is no assigned opcode. -/
  | unassignedOpcode
  deriving DecidableEq, Repr

/-- The field `OPC`, bits 7:0 (R41). -/
def opcField (w : Word) : Byte := w.extractLsb' 0 8

/-- The field `RSV`, bits 31:8 (R41). -/
def rsvField (w : Word) : BitVec 24 := w.extractLsb' 8 24

/-- The opcode map (R42, R44). -/
def opcodeMap : List (Byte × Instr) :=
  [(0x01, .pbit), (0x02, .degree), (0x03, .pmul), (0x04, .divrem), (0x05, .prem),
   (0x10, .tread), (0x11, .cclr), (0x12, .cfold),
   (0x20, .highb), (0x21, .midb), (0x22, .lowb)]

/-- The command an opcode map assigns to an opcode. -/
def lookupOpcode (opc : Byte) : List (Byte × Instr) → Option Instr
  | [] => none
  | (o, i) :: rest => if o = opc then some i else lookupOpcode opc rest

/-- Decoding, total on every 32-bit word (R42, R46). -/
def decode (w : Word) : Except DecodeError Instr :=
  if rsvField w ≠ 0 then .error .reservedNotZero
  else match lookupOpcode (opcField w) opcodeMap with
    | some i => .ok i
    | none => .error .unassignedOpcode

/-- The command word of R44. -/
def encode : Instr → Word
  | .pbit => 0x00000001
  | .degree => 0x00000002
  | .pmul => 0x00000003
  | .divrem => 0x00000004
  | .prem => 0x00000005
  | .tread => 0x00000010
  | .cclr => 0x00000011
  | .cfold => 0x00000012
  | .highb => 0x00000020
  | .midb => 0x00000021
  | .lowb => 0x00000022

/-- The 32-bit command word whose low `nbits` bits are those of `w`, the rest zero. -/
def tableWord (nbits w : Nat) : Word := BitVec.ofNat 32 (w % 2 ^ nbits)

/-- What the decoder reads from a row of the opcode table. A command is exactly one 32-bit word
(R41, R47), so a longer row is none; the bus has no byte lanes to order (R33). -/
def decodeTableWord (nbits w : Nat) : Option Instr :=
  if 32 < nbits then none
  else match decode (tableWord nbits w) with
    | .ok i => some i
    | .error _ => none

end Sys2Proof
end

