-- ==== Sys2Proof/Machine/Gf2.lean ====
section
/-! DEFINITION. Arithmetic on GF(2) polynomials (40_poly_arith.md). A `none` stands for the fault
the rule raises; the commands turn it into the fault entry. -/

namespace Sys2Proof.Machine

/-- The loop of `deg` (R52): shift right until 1, at most `fuel` times. -/
def degLoop : (fuel : Nat) → Word → Nat → Nat
  | 0, _, n => n
  | fuel + 1, p, n => if p = 1 then n else degLoop fuel (p >>> 1) (n + 1)

/-- `deg` (R52); `none` is the fault InvalidOperand. -/
def deg (p : Word) : Option Nat :=
  if p = 0 then none else some (degLoop 31 p 0)

/-- The loop of `pmul` (R54): at most `fuel` bits of `y` are left. -/
def pmulLoop : (fuel : Nat) → (x y acc : Word) → Word
  | 0, _, _, acc => acc
  | fuel + 1, x, y, acc =>
    if y = 0 then acc
    else pmulLoop fuel (x <<< 1) (y >>> 1) (if y.getLsbD 0 then acc ^^^ x else acc)

/-- `pmul`: the product modulo `x^32` (R54). -/
def pmul (x y : Word) : Word := pmulLoop 32 x y 0

/-- The loop of `pdivrem` (R56) for a divisor of degree `db`. A dividend of no degree is 0. -/
def pdivremLoop (b : Word) (db : Nat) : (fuel : Nat) → (t q : Word) → Word × Word
  | 0, t, q => (q, t)
  | fuel + 1, t, q =>
    match deg t with
    | none => (q, 0)
    | some dt =>
      if dt < db then (q, t)
      else pdivremLoop b db fuel (t ^^^ (b <<< (dt - db))) (q ^^^ (1#32 <<< (dt - db)))

/-- `pdivrem`: quotient and remainder (R56); `none` is the fault DivisionByZero, tested first. -/
def pdivrem (t b : Word) : Option (Word × Word) :=
  match deg b with
  | none => none
  | some db => some (pdivremLoop b db 32 t 0)

/-- `prem`: the second result of `pdivrem` (R57). -/
def prem (t b : Word) : Option Word := (pdivrem t b).map Prod.snd

end Sys2Proof.Machine
end

