-- ==== Sys2Proof/Machine/CrcMath.lean ====
section
/-! DEFINITION. The table generator, the fold, the hash and the byte accessors as pure functions
(41_crc_engine.md). -/

namespace Sys2Proof.Machine

/-- `genTable` (R62). The generator is not 0, so `prem` always answers (R63). -/
def genTable (i : Byte) : Crc :=
  match prem (i.setWidth 32 <<< Config.genDegree) Config.gen with
  | some r => (r &&& Config.mask).setWidth 24
  | none => 0

/-- TABLE as INIT leaves it: every entry is `genTable` of its index (R93). -/
def builtTable : Vector Crc Config.tableSize :=
  ⟨((List.range Config.tableSize).map fun i => genTable (BitVec.ofNat 8 i)).toArray, by simp⟩

/-- `TABLE[i]` (R17). -/
def tableEntry (table : Vector Crc Config.tableSize) (i : Byte) : Crc := table[i.toNat]'i.isLt

/-- `highByte`, bits 23:16 of a 24-bit value (R71). -/
def highByte (v : Crc) : Byte := v.extractLsb' 16 8

/-- `midByte`, bits 15:8 (R72). -/
def midByte (v : Crc) : Byte := v.extractLsb' 8 8

/-- `lowByte`, bits 7:0 (R73). -/
def lowByte (v : Crc) : Byte := v.extractLsb' 0 8

/-- `fold`: one step of the hash loop over a given table (R66). -/
def crcFold (table : Vector Crc Config.tableSize) (crc : Crc) (d : Byte) : Crc :=
  ((crc.setWidth 32 <<< 8) ^^^ (tableEntry table (d ^^^ highByte crc)).setWidth 32).setWidth 24

/-- The hash loop started from any accumulator (R68). -/
def foldBytes (table : Vector Crc Config.tableSize) (crc : Crc) (data : List Byte) : Crc :=
  data.foldl (crcFold table) crc

/-- `hash`: the CRC-24Q check of a message (R68). The accumulator is 24 bits wide, so the final
`AND MASK` changes nothing (C2). -/
def crcHash (data : List Byte) : Crc := foldBytes builtTable 0 data

/-- One step of the source's own loop, whose accumulator is 32 bits wide and not masked (R69, C2). -/
def foldWide (table : Vector Crc Config.tableSize) (crc : Word) (d : Byte) : Word :=
  (crc <<< 8) ^^^ (tableEntry table (d ^^^ crc.extractLsb' 16 8)).setWidth 32

/-- The hash with masking only at the end (R69). -/
def crcHashWide (data : List Byte) : Word := data.foldl (foldWide builtTable) 0 &&& Config.mask

/-- The three check bytes in the order high, middle, low (R34). -/
def checkBytes (v : Crc) : List Byte := [highByte v, midByte v, lowByte v]

/-- A frame: the data followed by its three check bytes (R75). -/
def frameOf (data : List Byte) : List Byte := data ++ checkBytes (crcHash data)

end Sys2Proof.Machine
end

