-- ==== Sys2Proof/Machine/State.lean ====
section
/-! DEFINITION. The machine's state (10_state.md, R23; 70 R92), the reasons it can stop, and the
state after reset. -/

namespace Sys2Proof.Machine

/-- The core's lifecycle phase (R19). -/
inductive Phase where
  /-- INIT: the table is being built; every host access is held. -/
  | init
  /-- READY: every command is available. -/
  | ready
  /-- FAULTED: commands are ignored until reset. -/
  | faulted
  deriving DecidableEq, Repr

/-- Which of the registers without a reset value hold a value: the Option tags of R23, kept beside
the registers (log 2). -/
structure Written where
  opa : Bool
  opb : Bool
  res0 : Bool
  res1 : Bool
  deriving DecidableEq, Repr

/-- The host agent (R9): what it has still to do, and what it has observed (R102). Log 4. -/
structure HostState where
  /-- The lines not yet performed, oldest first. While the core is in INIT they are held (R94). -/
  program : List Line
  /-- The values kept under host names, newest first (R48). -/
  names : List (HostName × Word)
  /-- The values the host's reads returned, oldest first (R102). -/
  reads : List Word
  /-- Every `expect` line so far held (R102). -/
  expectsHeld : Bool
  /-- A command or a host read has used a register that held no value (R100, R102). Log 2. -/
  unwrittenUse : Bool
  /-- A reset has cleared a fault: the block forgets it, the host program has failed all the same
  (R84, R102). Log 22. -/
  faultCleared : Bool
  deriving DecidableEq, Repr

/-- The state of the block (R23) and of the host that drives it. -/
structure State where
  /-- OPA, operand A (R10). -/
  opa : Word
  /-- OPB, operand B (R11). -/
  opb : Word
  /-- RES0, the primary result (R12). -/
  res0 : Word
  /-- RES1, DIVREM's remainder (R13). -/
  res1 : Word
  /-- CRC, the accumulator (R14). -/
  crc : Crc
  /-- STATUS.FAULT (R16). -/
  fault : Bool
  /-- STATUS.CAUSE (R16). -/
  cause : BitVec 4
  /-- TABLE (R17). -/
  table : Vector Crc Config.tableSize
  /-- The lifecycle phase (R19). -/
  phase : Phase
  /-- Which registers hold a value (R23). -/
  written : Written
  /-- The host agent (R9). -/
  host : HostState
  deriving DecidableEq, Repr

/-- Why the model stops. A fault of the HARDWARE is no such stop: it is a next state (60 R82). -/
inductive Fault where
  /-- The host's access is not admitted: the block does nothing and answers with a bus error, and
  what the platform does then is outside the block, so the host is stuck (R27, U11). Raised by
  `Machine.performAccess`. Safe (log 6). -/
  | busError (a : Access)
  deriving DecidableEq, Repr

/-- Why a step has no meaning. -/
inductive Refusal where
  /-- The instruction has no meaning yet: raised by no arm of `exec`. Safe. -/
  | notModelled (mnemonic : String)
  /-- A host line uses a host name that no earlier line kept, so there is no value to write (R48).
  Raised by `Machine.withOperand`. Safe (log 11). -/
  | unboundName (n : HostName)
  deriving DecidableEq, Repr

/-- A host that has issued nothing and read nothing. -/
def HostState.start : HostState :=
  { program := [], names := [], reads := [], expectsHeld := true, unwrittenUse := false,
    faultCleared := false }

/-- The machine right after reset (R92). OPA, OPB, RES0 and RES1 are unspecified there and TABLE is
until INIT ends; their zeros are the model's (log 1, log 3). -/
def State.reset : State :=
  { opa := 0
    opb := 0
    res0 := 0
    res1 := 0
    crc := 0x000000
    fault := false
    cause := 0
    table := Vector.replicate Config.tableSize 0
    phase := .init
    written := { opa := false, opb := false, res0 := false, res1 := false }
    host := HostState.start }

end Sys2Proof.Machine
end

