-- ==== Sys2Proof/Machine/Flags.lean ====
section
/-! DEFINITION. STATUS (10_state.md R16) and the cause codes (60_exceptions.md R77). The block has
no other flag (R21). -/

namespace Sys2Proof.Machine

/-- The causes of a hardware fault (R77). -/
inductive FaultCause where
  | invalidOperand | divisionByZero | operandRange | illegalCommand
  deriving DecidableEq, Repr

/-- The code held in STATUS.CAUSE (R77). -/
def causeCode : FaultCause → BitVec 4
  | .invalidOperand => 1
  | .divisionByZero => 2
  | .operandRange => 3
  | .illegalCommand => 4

/-- STATUS as a 32-bit word: FAULT in bit 0, CAUSE in bits 11:8, every other bit 0 (R16). -/
def statusWord (fault : Bool) (cause : BitVec 4) : Word :=
  (BitVec.ofBool fault).setWidth 32 ||| (cause.setWidth 32 <<< 8)

end Sys2Proof.Machine
end

