-- ==== Sys2Proof/Machine/Ops.lean ====
section
/-! DEFINITION. The named operations over the state: what runs only in READY, using and writing
registers, taking a hardware fault, initialisation and reset. There is no return from a fault
(60 R85): reset is the only way out. -/

namespace Sys2Proof.Machine

/-- A command executes only in READY (20 R29, 40): in FAULTED it has no effect (60 R84), and in INIT
nothing is performed (70 R94; `step` holds the access there). Log 8. -/
def whenReady (s : State) (f : State → Host.Outcome State Fault Refusal) :
    Host.Outcome State Fault Refusal :=
  match s.phase with
  | .ready => f s
  | .init => .next s
  | .faulted => .next s

/-- Note that a register was used, and whether it held a value (R23, R100). The hardware uses what
the register holds, so nothing else happens. Log 2. -/
def noteUse (holdsValue : Bool) (s : State) : State :=
  { s with host := { s.host with unwrittenUse := s.host.unwrittenUse || !holdsValue } }

/-- A command uses OPA. -/
def useOpa (s : State) : State := noteUse s.written.opa s

/-- A command uses OPB. -/
def useOpb (s : State) : State := noteUse s.written.opb s

/-- `REG[OPA] <- v`, by the host alone (R10). -/
def writeOpa (v : Word) (s : State) : State :=
  { s with opa := v, written := { s.written with opa := true } }

/-- `REG[OPB] <- v`, by the host alone (R11). -/
def writeOpb (v : Word) (s : State) : State :=
  { s with opb := v, written := { s.written with opb := true } }

/-- `REG[RES0] <- v` (R12). -/
def writeRes0 (v : Word) (s : State) : State :=
  { s with res0 := v, written := { s.written with res0 := true } }

/-- `REG[RES1] <- v` (R13). -/
def writeRes1 (v : Word) (s : State) : State :=
  { s with res1 := v, written := { s.written with res1 := true } }

/-- `REG[CRC] <- v` (R14). -/
def writeCrc (v : Crc) (s : State) : State := { s with crc := v }

/-- Fault entry, `raise Fault(c)` (R82): STATUS and the phase, and nothing else. -/
def raiseFault (c : FaultCause) (s : State) : State :=
  { s with fault := true, cause := causeCode c, phase := .faulted }

/-- Initialisation: TABLE is built and INIT ends in READY (R93). -/
def runInit (s : State) : State := { s with table := builtTable, phase := .ready }

/-- Reset of the block (R91, R92). The host agent is not part of the block and goes on (log 12); that
a fault was taken stays on its record, since a failed state is kept failed by every later step (R84,
log 22). -/
def applyReset (s : State) : State :=
  { State.reset with host := { s.host with faultCleared := s.host.faultCleared || s.fault } }

end Sys2Proof.Machine
end

