-- ==== Sys2Proof/Machine/Operands.lean ====
section
/-! DEFINITION. The operand forms (30_encoding.md R43). -/

namespace Sys2Proof.Machine

/-- `A32`: all of OPA. -/
def a32 (s : State) : Word := s.opa

/-- `B32`: all of OPB. -/
def b32 (s : State) : Word := s.opb

/-- `POS`: OPB as a bit position; `none` where it is not below 32 (OperandRange, R80). -/
def pos (s : State) : Option Nat := if s.opb.toNat < 32 then some s.opb.toNat else none

/-- `BYTE`: OPA[7:0]; OPA[31:8] is ignored. -/
def byteA (s : State) : Byte := s.opa.extractLsb' 0 8

/-- `V24`: OPA[23:0]; OPA[31:24] is ignored. -/
def v24 (s : State) : Crc := s.opa.extractLsb' 0 24

/-- `zext_32` (R6): results are zero-extended (R43). -/
def zext32 {n : Nat} (v : BitVec n) : Word := v.setWidth 32

end Sys2Proof.Machine
end

