-- ==== Sys2Proof/Machine/Bytes.lean ====
section
/-! DEFINITION. The byte accessors (41_crc_engine.md section 4). -/

namespace Sys2Proof.Machine

/-- HIGHB (R71). -/
def execHighb (s : State) : Host.Outcome State Fault Refusal :=
  whenReady (s := s) fun s => .next (writeRes0 (zext32 (highByte (v24 s))) (useOpa s))

/-- MIDB (R72). -/
def execMidb (s : State) : Host.Outcome State Fault Refusal :=
  whenReady (s := s) fun s => .next (writeRes0 (zext32 (midByte (v24 s))) (useOpa s))

/-- LOWB (R73). -/
def execLowb (s : State) : Host.Outcome State Fault Refusal :=
  whenReady (s := s) fun s => .next (writeRes0 (zext32 (lowByte (v24 s))) (useOpa s))

end Sys2Proof.Machine
end

