-- ==== Sys2Proof/Machine/Engine.lean ====
section
/-! DEFINITION. The table and accumulator commands (41_crc_engine.md sections 2 and 3). -/

namespace Sys2Proof.Machine

/-- TREAD (R64). -/
def execTread (s : State) : Host.Outcome State Fault Refusal :=
  whenReady (s := s) fun s =>
    .next (writeRes0 (zext32 (tableEntry s.table (byteA s))) (useOpa s))

/-- CCLR (R65): no operand is read. -/
def execCclr (s : State) : Host.Outcome State Fault Refusal :=
  whenReady (s := s) fun s => .next (writeCrc 0x000000 s)

/-- CFOLD (R67). -/
def execCfold (s : State) : Host.Outcome State Fault Refusal :=
  whenReady (s := s) fun s => .next (writeCrc (crcFold s.table s.crc (byteA s)) (useOpa s))

end Sys2Proof.Machine
end

