-- ==== Sys2Proof/Machine/Poly.lean ====
section
/-! DEFINITION. The polynomial commands (40_poly_arith.md). Operands are read before any register is
written (R8). -/

namespace Sys2Proof.Machine

/-- PBIT (R51). -/
def execPbit (s : State) : Host.Outcome State Fault Refusal :=
  whenReady (s := s) fun s =>
    let used := useOpb (useOpa s)
    match pos s with
    | none => .next (raiseFault .operandRange used)
    | some n => .next (writeRes0 (a32 s ||| (1#32 <<< n)) used)

/-- DEGREE (R53). -/
def execDegree (s : State) : Host.Outcome State Fault Refusal :=
  whenReady (s := s) fun s =>
    let used := useOpa s
    match deg (a32 s) with
    | none => .next (raiseFault .invalidOperand used)
    | some n => .next (writeRes0 (BitVec.ofNat 32 n) used)

/-- PMUL (R55). -/
def execPmul (s : State) : Host.Outcome State Fault Refusal :=
  whenReady (s := s) fun s =>
    .next (writeRes0 (pmul (a32 s) (b32 s)) (useOpb (useOpa s)))

/-- DIVREM (R58). -/
def execDivrem (s : State) : Host.Outcome State Fault Refusal :=
  whenReady (s := s) fun s =>
    let used := useOpb (useOpa s)
    match pdivrem (a32 s) (b32 s) with
    | none => .next (raiseFault .divisionByZero used)
    | some (q, r) => .next (writeRes1 r (writeRes0 q used))

/-- PREM (R59). -/
def execPrem (s : State) : Host.Outcome State Fault Refusal :=
  whenReady (s := s) fun s =>
    let used := useOpb (useOpa s)
    match prem (a32 s) (b32 s) with
    | none => .next (raiseFault .divisionByZero used)
    | some r => .next (writeRes0 r used)

end Sys2Proof.Machine
end

