-- ==== Sys2Proof/Machine/Dispatch.lean ====
section
/-! DEFINITION. The meaning of every command: one arm per constructor of Instr. -/

namespace Sys2Proof.Machine

/-- `execute` of a decoded command (20_memory.md R29, 30_encoding.md R44). -/
def exec (i : Instr) (s : State) : Host.Outcome State Fault Refusal :=
  match i with
  | .pbit => Sys2Proof.Machine.execPbit s
  | .degree => Sys2Proof.Machine.execDegree s
  | .pmul => Sys2Proof.Machine.execPmul s
  | .divrem => Sys2Proof.Machine.execDivrem s
  | .prem => Sys2Proof.Machine.execPrem s
  | .tread => Sys2Proof.Machine.execTread s
  | .cclr => Sys2Proof.Machine.execCclr s
  | .cfold => Sys2Proof.Machine.execCfold s
  | .highb => Sys2Proof.Machine.execHighb s
  | .midb => Sys2Proof.Machine.execMidb s
  | .lowb => Sys2Proof.Machine.execLowb s

end Sys2Proof.Machine
end

