-- ==== Sys2Proof/Machine/Bus.lean ====
section
/-! DEFINITION. The register window: which access is admitted, what a read returns, what a write does
(20_memory.md). -/

namespace Sys2Proof.Machine

/-- A register's byte offset in the window (R25). -/
def regOffset : BusReg → Nat
  | .opa => 0x00
  | .opb => 0x04
  | .cmd => 0x08
  | .res0 => 0x0C
  | .res1 => 0x10
  | .crc => 0x14
  | .status => 0x18
  | .reserved => 0x1C

/-- The register at a byte offset (R25). -/
def regAt (off : Nat) : Option BusReg :=
  [BusReg.opa, .opb, .cmd, .res0, .res1, .crc, .status, .reserved].find? (regOffset · == off)

/-- Admission (R27): size 4, offset a multiple of 4, offset inside the window. -/
def admitted (size off : Nat) : Bool := size == 4 && off % 4 == 0 && off < Config.window

/-- The register an access reaches: the window starts at `BASE` (R24), and an access below it, past
it, misaligned or of another size reaches none (R27). -/
def accessReg (a : Access) : Option BusReg :=
  if Config.base ≤ a.addr ∧ admitted a.size (a.addr - Config.base) then
    regAt (a.addr - Config.base)
  else none

/-- `BusRead`: what a host read returns (R25, R28). It changes no state of the block. -/
def busRead (r : BusReg) (s : State) : Word :=
  match r with
  | .opa => s.opa
  | .opb => s.opb
  | .cmd => 0
  | .res0 => s.res0
  | .res1 => s.res1
  | .crc => s.crc.setWidth 32
  | .status => statusWord s.fault s.cause
  | .reserved => 0

/-- Whether a register holds a value (R23). Log 18. -/
def holdsValue (r : BusReg) (s : State) : Bool :=
  match r with
  | .opa => s.written.opa
  | .opb => s.written.opb
  | .res0 => s.written.res0
  | .res1 => s.written.res1
  | .cmd | .crc | .status | .reserved => true

/-- A write of `w` to CMD (R29, R42): decoded and executed in READY, where a word that is no command
raises IllegalCommand (R45, R81); in FAULTED not even decoded (R84, R86). -/
def issueCommand (w : Word) (s : State) : Host.Outcome State Fault Refusal :=
  whenReady (s := s) fun s =>
    match decode w with
    | .ok i => exec i s
    | .error _ => .next (raiseFault .illegalCommand s)

/-- `BusWrite` of `v` to a register of the window (R29). -/
def busWrite (r : BusReg) (v : Word) (s : State) : Host.Outcome State Fault Refusal :=
  match r with
  | .opa => .next (writeOpa v s)
  | .opb => .next (writeOpb v s)
  | .cmd => issueCommand v s
  | .res0 | .res1 | .crc | .status | .reserved => .next s

/-- The host receives the value a read returned (R102), and whether the register held one (R100). -/
def deliverRead (r : BusReg) (s : State) : State :=
  let noted := noteUse (holdsValue r s) s
  { noted with host := { noted.host with reads := noted.host.reads ++ [busRead r s] } }

/-- A bus access written out by size and address. One that is not admitted is not performed, and the
host is stuck (R27). Log 6. -/
def performAccess (a : Access) (s : State) : Host.Outcome State Fault Refusal :=
  match accessReg a with
  | none => .fault (.busError a)
  | some r =>
    match a.data with
    | none => .next (deliverRead r s)
    | some v => busWrite r v s

end Sys2Proof.Machine
end

