-- ==== Sys2Proof/Machine/HostStep.lean ====
section
/-! DEFINITION. One line of the host's program (30_encoding.md R48), and the step of the whole: the
core's initialisation first, then the host's lines in order (70 R94, 20 R36). -/

namespace Sys2Proof.Machine

/-- The value kept under a host name, the newest first (R48). -/
def lookupName (n : HostName) : List (HostName × Word) → Option Word
  | [] => none
  | (m, v) :: rest => if m = n then some v else lookupName n rest

/-- The value of an operand: the immediate itself, or what its name keeps (R48). -/
def operandValue (names : List (HostName × Word)) : Operand → Option Word
  | .imm v => some v
  | .name n => lookupName n names

/-- The value of an operand, or the refusal of a name nothing kept (R48). Log 11. -/
def withOperand (o : Operand) (s : State) (f : Word → Host.Outcome State Fault Refusal) :
    Host.Outcome State Fault Refusal :=
  match o with
  | .imm v => f v
  | .name n =>
    match lookupName n s.host.names with
    | some v => f v
    | none => .refused (.unboundName n)

/-- Keep a value under a host name (R48). -/
def keepName (n : HostName) (v : Word) (s : State) : State :=
  { s with host := { s.host with names := (n, v) :: s.host.names } }

/-- Record whether an `expect` line held (R102). -/
def noteExpect (held : Bool) (s : State) : State :=
  { s with host := { s.host with expectsHeld := s.host.expectsHeld && held } }

/-- Perform one line (R48). -/
def performLine (l : Line) (s : State) : Host.Outcome State Fault Refusal :=
  match l with
  | .wrOpa v => withOperand v s fun w => busWrite .opa w s
  | .wrOpb v => withOperand v s fun w => busWrite .opb w s
  | .wrCmd v => withOperand v s fun w => busWrite .cmd w s
  | .command i => busWrite .cmd (encode i) s
  | .rd r => .next (deliverRead r s)
  | .rdTo r n => .next (keepName n (busRead r s) (deliverRead r s))
  | .expect r v => withOperand v s fun w => .next (noteExpect (busRead r s == w) (deliverRead r s))
  | .access a => performAccess a s
  | .assign n v => .next (keepName n v s)
  | .reset => .next (applyReset s)

/-- Replace the host's remaining lines. -/
def setProgram (lines : List Line) (s : State) : State :=
  { s with host := { s.host with program := lines } }

/-- The host performs its next line; with none left the block is idle and nothing changes (R9).
Log 5. -/
def hostStep (s : State) : Host.Outcome State Fault Refusal :=
  match s.host.program with
  | [] => .next s
  | l :: rest => performLine l (setProgram rest s)

/-- In INIT the core's initialisation is the only step and every access is held (R94); afterwards the
host's lines are performed in the order issued (R36). Log 10. -/
def stepOnce (s : State) : Host.Outcome State Fault Refusal :=
  match s.phase with
  | .init => .next (runInit s)
  | .ready | .faulted => hostStep s

/-- INIT over, if the core is still in it. -/
def finishInit (s : State) : State :=
  match s.phase with
  | .init => runInit s
  | .ready | .faulted => s

/-- The next thing the host does is to write the command word to CMD. Log 9. -/
def placeCommand (w : Word) (s : State) : State :=
  let awake := finishInit s
  setProgram (.wrCmd (.imm w) :: awake.host.program) awake

end Sys2Proof.Machine
end

