-- ==== Sys2Proof/Machine/Step.lean ====
section
/-! DEFINITION. The machine's step, and the placing of a command word where it is fetched. -/

namespace Sys2Proof.Machine

/-- One step: initialisation in INIT, otherwise the host's next line. -/
def step (s : State) : Host.Outcome State Fault Refusal := stepOnce s

/-- `s` with the command of bits `w` as the host's next write to CMD, INIT over (log 9). -/
def State.withFetchWord (s : State) (nbits w : Nat) : State := placeCommand (tableWord nbits w) s

end Sys2Proof.Machine
end

