-- ==== Sys2Proof/Safety.lean ====
section
/-! DEFINITION. What counts as a legal state and a good end of a host program, and the frames, in the
terms claims use. -/

namespace Sys2Proof.Machine

/-! ## The block's invariant -/

/-- Outside INIT, every table entry is `genTable` of its index (R17, R93). -/
def TableBuilt (s : State) : Prop :=
  s.phase ≠ .init → ∀ i : Byte, tableEntry s.table i = genTable i

/-- STATUS.FAULT is 1 exactly in FAULTED (R19). -/
def FaultMatchesPhase (s : State) : Prop := s.fault = true ↔ s.phase = .faulted

/-- CAUSE is one of the codes 1 to 4 when FAULT is 1, and 0 otherwise (R16, R77). -/
def CauseLegal (s : State) : Prop :=
  (s.fault = true → 1 ≤ s.cause.toNat ∧ s.cause.toNat ≤ 4) ∧ (s.fault = false → s.cause = 0)

/-- The block's invariant: the table, STATUS and the phase agree as the spec says. -/
structure BlockInv (s : State) : Prop where
  table : TableBuilt s
  faultPhase : FaultMatchesPhase s
  causeLegal : CauseLegal s

/-! ## Host programs -/

/-- A failed state (R84): STATUS.FAULT is 1, or a reset has cleared it since. R48 has no reset line
(log 12); that the program stays failed after one is the model's reading of R84's "kept failed by
every later step" and of R102's "A program that faults". DESIGN CHOICE (log 22). -/
def Failed (s : State) : Prop := s.fault = true ∨ s.host.faultCleared = true

/-- A host program has ended well (R102): its last line is performed, every `expect` held, no
register was read that held no value, and the state is not failed, so STATUS.FAULT is 0 and no fault
was cleared by a reset on the way (log 22). Every access was admitted, or the machine would have
stopped. -/
def EndsWell (s : State) : Prop :=
  s.host.program = [] ∧ s.host.expectsHeld = true ∧ s.host.unwrittenUse = false ∧ ¬ Failed s

/-- The host's next act is not to apply reset. -/
def NoResetNext (s : State) : Prop := s.host.program.head? ≠ some .reset

/-- Only the host agent's record may differ: the block itself is unchanged. -/
def SameBlock (s t : State) : Prop := t = { s with host := t.host }

/-! ## Frames of the commands -/

/-- The host record after registers were used of which all held a value (`holds`) or not (R100). -/
def hostAfterUse (holds : Bool) (h : HostState) : HostState :=
  { h with unwrittenUse := h.unwrittenUse || !holds }

/-- RES0 is written and nothing else of the block changes: OPA, OPB, RES1, CRC, STATUS, TABLE and the
phase are as before. -/
def ChangesOnlyRes0 (holds : Bool) (s t : State) : Prop :=
  t = { s with
        res0 := t.res0
        written := { s.written with res0 := true }
        host := hostAfterUse holds s.host }

/-- RES0 and RES1 are written and nothing else of the block changes. -/
def ChangesOnlyResults (holds : Bool) (s t : State) : Prop :=
  t = { s with
        res0 := t.res0
        res1 := t.res1
        written := { s.written with res0 := true, res1 := true }
        host := hostAfterUse holds s.host }

/-- CRC is written and nothing else of the block changes. -/
def ChangesOnlyCrc (holds : Bool) (s t : State) : Prop :=
  t = { s with crc := t.crc, host := hostAfterUse holds s.host }

/-- The state after fault entry with a cause code (R82): FAULT, CAUSE and the phase, and nothing else
of the block. -/
def faultedState (code : BitVec 4) (holds : Bool) (s : State) : State :=
  { s with fault := true, cause := code, phase := .faulted, host := hostAfterUse holds s.host }

/-! ## Polynomials over GF(2) -/

/-- A word as a polynomial: bit `k` is the coefficient of `x^k` (R5). -/
def Represents {n : Nat} (v : BitVec n) (p : Polynomial (ZMod 2)) : Prop :=
  ∀ k, p.coeff k = if v.getLsbD k then 1 else 0

/-- Bit `k` of a message of any length: the first byte holds the highest powers, and bit 7 of each
byte is its highest power (R70). -/
def messageBit (data : List Byte) (k : Nat) : Bool :=
  match data.reverse[k / 8]? with
  | some d => d.getLsbD (k % 8)
  | none => false

/-- The message polynomial `M` of R70. -/
def IsMessagePoly (data : List Byte) (p : Polynomial (ZMod 2)) : Prop :=
  ∀ k, p.coeff k = if messageBit data k then 1 else 0

/-- A remainder as division asks for it: 0, or of lower degree than the divisor (R56, R60). -/
def IsRemainderFor (b r : Word) : Prop :=
  r = 0 ∨ ∃ dr db, deg r = some dr ∧ deg b = some db ∧ dr < db

/-- The exact product of two words fits 32 bits, so `pmul` loses nothing (R50, R60). -/
def ProductFits (x y : Word) : Prop :=
  ∀ dx dy, deg x = some dx → deg y = some dy → dx + dy ≤ 31

/-- The source's known vector (95 L1.1), for a payload `p` the spec does not give (U4). Log 20. -/
def KnownVector (p : List Byte) : Prop :=
  p.length = 93 ∧ p.drop 90 = [0, 0, 0] ∧ crcHash p = 0xE51ED8

end Sys2Proof.Machine
end

