-- ==== Sys2Proof/Certificates/Slice0/Obligations.lean ====
section
/-! DEFINITION. The statements for the provers. Each docstring names the rules it formalises. A title
that says "the model's" rests on a log entry it names. -/

open Sys2Proof Sys2Proof.Machine

/-! ## Command words -/

/-- R41, R42, R44: the eleven command words and some words beside them, written out, decode as the
opcode map says. -/
def Obligations.CommandWordsDecodeAsTheMapSays : Prop :=
  decode 0x00000001 = .ok .pbit ∧ decode 0x00000002 = .ok .degree ∧
  decode 0x00000003 = .ok .pmul ∧ decode 0x00000004 = .ok .divrem ∧
  decode 0x00000005 = .ok .prem ∧ decode 0x00000010 = .ok .tread ∧
  decode 0x00000011 = .ok .cclr ∧ decode 0x00000012 = .ok .cfold ∧
  decode 0x00000020 = .ok .highb ∧ decode 0x00000021 = .ok .midb ∧
  decode 0x00000022 = .ok .lowb ∧
  decode 0x00000000 = .error .unassignedOpcode ∧ decode 0x00000006 = .error .unassignedOpcode ∧
  decode 0x00000102 = .error .reservedNotZero ∧ decode 0x80000001 = .error .reservedNotZero

/-- R42, R44, R46: a word decodes to a command exactly when it is that command's word, over all
words: no bit of the word is dropped and no two words are one command. -/
def Obligations.WordsAndCommandsCorrespond : Prop :=
  ∀ (w : Word) (i : Instr), decode w = .ok i ↔ w = encode i

/-- R45: a word whose RSV is not zero, or whose OPC is in 0x00, 0x06 to 0x0F, 0x13 to 0x1F or 0x23 to
0xFF, is exactly a word of no command, and writing it to CMD in READY raises IllegalCommand, cause 4,
and changes nothing else. -/
def Obligations.EveryOtherWordIsIllegal : Prop :=
  (∀ w : Word, (∀ i, w ≠ encode i) ↔
    (w.extractLsb' 8 24 ≠ 0#24 ∨
      (let opc := (w.extractLsb' 0 8).toNat
       opc = 0x00 ∨ (0x06 ≤ opc ∧ opc ≤ 0x0F) ∨ (0x13 ≤ opc ∧ opc ≤ 0x1F) ∨ 0x23 ≤ opc))) ∧
  (∀ (w : Word) (s : State), s.phase = .ready → (∀ i, w ≠ encode i) →
    busWrite .cmd w s = .next (faultedState 4 true s))

/-- R41, R44: what the decoder reads back from a command's own word, and from the table's numbering
of it. -/
def Obligations.EncodedCommandDecodesBack : Prop :=
  ∀ i : Instr, decode (encode i) = .ok i ∧ decodeTableWord 32 (encode i).toNat = some i

/-! ## Running a command -/

/-- R29, R36, R48: outside INIT, a step whose next line writes a command's word to CMD, by the word
or by the mnemonic, is exec of that command on the state with the line taken off. -/
def Obligations.StepRunsTheDecodedCommand : Prop :=
  (∀ (s : State) (w : Word) (i : Instr) (rest : List Line), s.phase ≠ .init →
    s.host.program = .wrCmd (.imm w) :: rest → decode w = .ok i →
    step s = exec i (setProgram rest s)) ∧
  (∀ (s : State) (i : Instr) (rest : List Line), s.phase ≠ .init →
    s.host.program = .command i :: rest → step s = exec i (setProgram rest s))

/-- R93, R94; the model's placing of a command (log 9): after reset with INIT over, the placed command
is what the next step runs. -/
def Obligations.PlacedCommandRunsFirst : Prop :=
  ∀ (w : Word) (i : Instr), decode w = .ok i →
    step (State.reset.withFetchWord 32 w.toNat) = exec i (runInit State.reset)

/-! ## Polynomial functions -/

/-- R52: `deg` fails on 0 alone, and otherwise is the largest `k` with `p[k] = 1`, at most 31. -/
def Obligations.DegreeIsHighestSetBit : Prop :=
  ∀ p : Word, (p = 0 → deg p = none) ∧
    (p ≠ 0 → ∃ n, deg p = some n ∧ n ≤ 31 ∧ p.getLsbD n = true ∧
      ∀ k, n < k → p.getLsbD k = false)

/-- R54, its closed form: bit `k` of the product is the XOR over `i + j = k` of `x[i] AND y[j]`. -/
def Obligations.PmulClosedForm : Prop :=
  ∀ (x y : Word) (k : Nat), k < 32 →
    (pmul x y).getLsbD k =
      ((List.range (k + 1)).map fun i => x.getLsbD i && y.getLsbD (k - i)).foldr Bool.xor false

/-- R61: `pmul` is commutative, associative, distributes over XOR, and shifts for powers of `x`. -/
def Obligations.PmulLaws : Prop :=
  (∀ x y : Word, pmul x y = pmul y x) ∧
  (∀ x y z : Word, pmul (pmul x y) z = pmul x (pmul y z)) ∧
  (∀ x y z : Word, pmul x (y ^^^ z) = pmul x y ^^^ pmul x z) ∧
  (∀ x : Word, pmul x 1 = x ∧ pmul x 0 = 0) ∧
  (∀ (x : Word) (n : Nat), n ≤ 31 → pmul x (1#32 <<< n) = x <<< n)

/-- R56, R60: division by a non-zero polynomial answers, the division identity holds in both orders
without loss, and the remainder is 0 or of lower degree. -/
def Obligations.DivisionIdentity : Prop :=
  ∀ t b : Word, b ≠ 0 → ∃ q r, pdivrem t b = some (q, r) ∧
    pmul q b ^^^ r = t ∧ pmul b q ^^^ r = t ∧ IsRemainderFor b r ∧ ProductFits q b

/-- R60: among the pairs whose product loses nothing, quotient and remainder are unique. -/
def Obligations.DivisionPairUnique : Prop :=
  ∀ t b q r : Word, b ≠ 0 → ProductFits q b → pmul q b ^^^ r = t → IsRemainderFor b r →
    pdivrem t b = some (q, r)

/-- R60 as its sentence stands, with `pmul` modulo `x^32` and no premise that the product fits: it
fails, since a multiple of `x^32` can be added to the quotient's product unseen. -/
def Obligations.DivisionPairUniqueWithoutFit : Prop :=
  ∀ t b q r : Word, b ≠ 0 → pmul q b ^^^ r = t → IsRemainderFor b r →
    pdivrem t b = some (q, r)

/-- R56, R57: division fails exactly for the zero divisor, also when the dividend is 0. -/
def Obligations.DivisionFailsOnlyByZero : Prop :=
  ∀ t b : Word, (pdivrem t b = none ↔ b = 0) ∧ (prem t b = none ↔ b = 0) ∧
    (∀ q r, pdivrem t b = some (q, r) → prem t b = some r)

/-! ## Table, fold and hash -/

/-- R62, R63: `genTable i` is the remainder of `i << 24` by `G`, with nothing masked away: the
remainder division finds, and equal to `i << 24` up to a multiple `q * G`, `q` of at most 8 bits. -/
def Obligations.TableEntryIsRemainder : Prop :=
  ∀ i : Byte,
    prem (i.setWidth 32 <<< 24) 0x01864CFB = some ((genTable i).setWidth 32) ∧
    ∃ q : Word, q.toNat < 256 ∧
      pmul q 0x01864CFB ^^^ (genTable i).setWidth 32 = i.setWidth 32 <<< 24

/-- R63: `genTable` is linear, 0 at 0, and `G AND MASK` at 1. -/
def Obligations.TableIsLinear : Prop :=
  (∀ i j : Byte, genTable (i ^^^ j) = genTable i ^^^ genTable j) ∧
  genTable 0 = 0x000000 ∧ genTable 1 = 0x864CFB

/-- R66, written out: the fold shifts the low 16 bits up by a byte and XORs the entry that the byte
XOR the high byte selects, over any table. -/
def Obligations.FoldWrittenOut : Prop :=
  ∀ (table : Vector Crc Config.tableSize) (crc : Crc) (d : Byte),
    crcFold table crc d =
      (crc.extractLsb' 0 16 ++ 0x00#8) ^^^ tableEntry table (d ^^^ crc.extractLsb' 16 8)

/-- R68: the hash starts at 0, folds the bytes in order, and is 0 for no bytes. -/
def Obligations.HashIsTheFoldOfTheBytes : Prop :=
  crcHash [] = 0 ∧
  (∀ (data : List Byte) (d : Byte),
    crcHash (data ++ [d]) = crcFold builtTable (crcHash data) d) ∧
  (∀ b : Byte, crcHash [b] = genTable b)

/-- R67, R68: leading zero bytes do not change a hash. -/
def Obligations.LeadingZerosDoNotChangeAHash : Prop :=
  ∀ (n : Nat) (data : List Byte), crcHash (List.replicate n 0 ++ data) = crcHash data

/-- R69: masking only at the end gives the same hash as masking after every fold. -/
def Obligations.MaskingOnlyAtTheEndIsTheSame : Prop :=
  ∀ data : List Byte, crcHashWide data = (crcHash data).setWidth 32

/-- R70: the hash of a message is `(M(x) * x^24) mod G`, over polynomials of any degree. -/
def Obligations.HashIsPolynomialRemainder : Prop :=
  ∀ (data : List Byte) (m h g : Polynomial (ZMod 2)),
    IsMessagePoly data m → Represents (crcHash data) h → Represents Config.gen g →
    h = Polynomial.modByMonic (m * Polynomial.X ^ 24) g

/-- R75: the data followed by the three bytes of its hash, high, middle, low, hashes to 0. -/
def Obligations.FrameHashesToZero : Prop :=
  ∀ data : List Byte, crcHash (frameOf data) = 0

/-! ## The commands -/

/-- R51: PBIT sets the coefficient OPB names in OPA, and faults OperandRange for a position of 32 or
more. The frame's record of a use of an operand that holds no value is the model's (log 2). -/
def Obligations.PbitSetsOneCoefficient : Prop :=
  decode 0x00000001 = .ok .pbit ∧
  (∀ s : State, s.phase = .ready → s.opb.toNat < 32 →
    ∃ t, exec .pbit s = .next t ∧
      (∀ k, k < 32 → t.res0.getLsbD k = (s.opa.getLsbD k || k == s.opb.toNat)) ∧
      ChangesOnlyRes0 (s.written.opa && s.written.opb) s t) ∧
  (∀ s : State, s.phase = .ready → 32 ≤ s.opb.toNat →
    exec .pbit s = .next (faultedState 3 (s.written.opa && s.written.opb) s))

/-- R53: DEGREE leaves in RES0 the number of the highest set bit of OPA, and faults InvalidOperand
for 0. The frame's record of a use of OPA when it holds no value is the model's (log 2). -/
def Obligations.DegreeGivesTheHighestBit : Prop :=
  decode 0x00000002 = .ok .degree ∧
  (∀ s : State, s.phase = .ready → s.opa ≠ 0 →
    ∃ t, exec .degree s = .next t ∧
      (t.res0.toNat < 32 ∧ s.opa.getLsbD t.res0.toNat = true ∧
        ∀ k, t.res0.toNat < k → s.opa.getLsbD k = false) ∧
      ChangesOnlyRes0 s.written.opa s t) ∧
  (∀ s : State, s.phase = .ready → s.opa = 0 →
    exec .degree s = .next (faultedState 1 s.written.opa s))

/-- R55: PMUL leaves the product modulo `x^32` in RES0, and never faults. The frame's
record of a use of an operand that holds no value is the model's (log 2). -/
def Obligations.PmulMultiplies : Prop :=
  decode 0x00000003 = .ok .pmul ∧
  (∀ s : State, s.phase = .ready →
    ∃ t, exec .pmul s = .next t ∧ t.res0 = pmul s.opa s.opb ∧
      ChangesOnlyRes0 (s.written.opa && s.written.opb) s t)

/-- R58: DIVREM leaves quotient and remainder in RES0 and RES1, and faults DivisionByZero for a zero
divisor, whatever the dividend. The frame's record of a use of an operand that holds no value is the
model's (log 2). -/
def Obligations.DivremDivides : Prop :=
  decode 0x00000004 = .ok .divrem ∧
  (∀ s : State, s.phase = .ready → s.opb ≠ 0 →
    ∃ t, exec .divrem s = .next t ∧ pdivrem s.opa s.opb = some (t.res0, t.res1) ∧
      ChangesOnlyResults (s.written.opa && s.written.opb) s t) ∧
  (∀ s : State, s.phase = .ready → s.opb = 0 →
    exec .divrem s = .next (faultedState 2 (s.written.opa && s.written.opb) s))

/-- R59: PREM leaves the remainder in RES0 and RES1 alone, and faults DivisionByZero for a zero
divisor. The frame's record of a use of an operand that holds no value is the model's (log 2). -/
def Obligations.PremGivesTheRemainder : Prop :=
  decode 0x00000005 = .ok .prem ∧
  (∀ s : State, s.phase = .ready → s.opb ≠ 0 →
    ∃ t, exec .prem s = .next t ∧ prem s.opa s.opb = some t.res0 ∧
      ChangesOnlyRes0 (s.written.opa && s.written.opb) s t) ∧
  (∀ s : State, s.phase = .ready → s.opb = 0 →
    exec .prem s = .next (faultedState 2 (s.written.opa && s.written.opb) s))

/-- R58, R60: the division identity on the block's own registers: multiplying DIVREM's quotient by
the divisor and adding its remainder gives the dividend. -/
def Obligations.DivremSatisfiesTheDivisionIdentity : Prop :=
  ∀ s : State, s.phase = .ready → s.opb ≠ 0 →
    ∃ t, exec .divrem s = .next t ∧ pmul t.res0 s.opb ^^^ t.res1 = s.opa ∧
      IsRemainderFor s.opb t.res1

/-- R64: TREAD leaves the entry that OPA[7:0] selects in RES0, zero-extended, over any table. The
frame's record of a use of OPA when it holds no value is the model's (log 2). -/
def Obligations.TreadReadsAnEntry : Prop :=
  decode 0x00000010 = .ok .tread ∧
  (∀ s : State, s.phase = .ready →
    ∃ t, exec .tread s = .next t ∧
      t.res0 = (tableEntry s.table (s.opa.extractLsb' 0 8)).setWidth 32 ∧
      ChangesOnlyRes0 s.written.opa s t)

/-- R62, R64, R93, source §8 "Table self-consistency": with the table as INIT leaves it, TREAD of a
byte and PREM of that byte shifted by 24 and the generator leave the same RES0. -/
def Obligations.TreadAgreesWithPrem : Prop :=
  ∀ s u : State, BlockInv s → s.phase = .ready → u.phase = .ready →
    u.opa = (s.opa.extractLsb' 0 8).setWidth 32 <<< 24 → u.opb = Config.gen →
    ∃ t v, exec .tread s = .next t ∧ exec .prem u = .next v ∧ t.res0 = v.res0

/-- R65: CCLR sets CRC to 0 and changes nothing else; it uses no operand. -/
def Obligations.CclrClearsTheAccumulator : Prop :=
  decode 0x00000011 = .ok .cclr ∧
  (∀ s : State, s.phase = .ready → exec .cclr s = .next { s with crc := 0x000000 })

/-- R67: CFOLD folds OPA[7:0] into CRC, over any table, and never faults. The frame's record of a
use of OPA when it holds no value is the model's (log 2). -/
def Obligations.CfoldFoldsOneByte : Prop :=
  decode 0x00000012 = .ok .cfold ∧
  (∀ s : State, s.phase = .ready →
    ∃ t, exec .cfold s = .next t ∧
      t.crc = crcFold s.table s.crc (s.opa.extractLsb' 0 8) ∧
      ChangesOnlyCrc s.written.opa s t)

/-- R71: HIGHB leaves OPA[23:16] in RES0, zero-extended. The frame's record of a use of OPA when
it holds no value is the model's (log 2). -/
def Obligations.HighbGivesBits23To16 : Prop :=
  decode 0x00000020 = .ok .highb ∧
  (∀ s : State, s.phase = .ready →
    ∃ t, exec .highb s = .next t ∧ t.res0 = (s.opa.extractLsb' 16 8).setWidth 32 ∧
      ChangesOnlyRes0 s.written.opa s t)

/-- R72: MIDB leaves OPA[15:8] in RES0, zero-extended. The frame's record of a use of OPA when
it holds no value is the model's (log 2). -/
def Obligations.MidbGivesBits15To8 : Prop :=
  decode 0x00000021 = .ok .midb ∧
  (∀ s : State, s.phase = .ready →
    ∃ t, exec .midb s = .next t ∧ t.res0 = (s.opa.extractLsb' 8 8).setWidth 32 ∧
      ChangesOnlyRes0 s.written.opa s t)

/-- R73: LOWB leaves OPA[7:0] in RES0, zero-extended. The frame's record of a use of OPA when
it holds no value is the model's (log 2). -/
def Obligations.LowbGivesBits7To0 : Prop :=
  decode 0x00000022 = .ok .lowb ∧
  (∀ s : State, s.phase = .ready →
    ∃ t, exec .lowb s = .next t ∧ t.res0 = (s.opa.extractLsb' 0 8).setWidth 32 ∧
      ChangesOnlyRes0 s.written.opa s t)

/-- R74: the three accessors' results put together give OPA AND MASK. -/
def Obligations.AccessorsPutOpaTogether : Prop :=
  ∀ s : State, s.phase = .ready →
    ∃ hi mid lo, exec .highb s = .next hi ∧ exec .midb s = .next mid ∧ exec .lowb s = .next lo ∧
      (hi.res0 <<< 16) ||| (mid.res0 <<< 8) ||| lo.res0 = s.opa &&& 0x00FFFFFF

/-! ## Commands as a whole -/

/-- R46, R82, R84: a write to CMD always answers a next state: no command word stops the machine. That
it answers one in INIT too, the same state, is the model's (log 8): there R94 has the access held, and
step holds it before it reaches this write. -/
def Obligations.EveryCommandWordCompletes : Prop :=
  ∀ (w : Word) (s : State), ∃ t, busWrite .cmd w s = .next t

/-- R77, R86: in READY a command faults exactly on its one operand check, with that check's code:
DEGREE of 0 (1), DIVREM and PREM by 0 (2), PBIT at 32 or more (3). -/
def Obligations.CommandsFaultExactlyOnTheirCheck : Prop :=
  ∀ (i : Instr) (s t : State), s.phase = .ready → exec i s = .next t →
    (t.phase = .faulted ∧ t.fault = true ∧
      ((i = .degree ∧ s.opa = 0 ∧ t.cause = 1) ∨
       ((i = .divrem ∨ i = .prem) ∧ s.opb = 0 ∧ t.cause = 2) ∨
       (i = .pbit ∧ 32 ≤ s.opb.toNat ∧ t.cause = 3))) ∨
    (t.phase = .ready ∧ t.fault = s.fault ∧ t.cause = s.cause ∧
      ¬ (i = .degree ∧ s.opa = 0) ∧ ¬ ((i = .divrem ∨ i = .prem) ∧ s.opb = 0) ∧
      ¬ (i = .pbit ∧ 32 ≤ s.opb.toNat))

/-- R82, R83: a write to CMD that takes a fault sets FAULT and CAUSE and enters FAULTED, and every
other register of the block keeps its value. -/
def Obligations.FaultEntryWritesOnlyStatus : Prop :=
  ∀ (w : Word) (s t : State), s.phase = .ready → busWrite .cmd w s = .next t →
    t.phase = .faulted →
    ∃ code : BitVec 4, 1 ≤ code.toNat ∧ code.toNat ≤ 4 ∧
      SameBlock { s with fault := true, cause := code, phase := .faulted } t

/-- R10, R11, R17, R26: no command word changes OPA, OPB or TABLE. -/
def Obligations.CommandsLeaveOperandsAndTable : Prop :=
  ∀ (w : Word) (s t : State), busWrite .cmd w s = .next t →
    t.opa = s.opa ∧ t.opb = s.opb ∧ t.table = s.table ∧
    t.written.opa = s.written.opa ∧ t.written.opb = s.written.opb

/-- R12, R13, R14, R99: only CCLR and CFOLD change CRC, only DIVREM changes RES1, and CCLR and CFOLD
do not change RES0. -/
def Obligations.EachResultRegisterHasItsCommands : Prop :=
  ∀ (i : Instr) (s t : State), exec i s = .next t →
    (t.crc ≠ s.crc → i = .cclr ∨ i = .cfold) ∧
    (t.res1 ≠ s.res1 → i = .divrem) ∧
    (t.res0 ≠ s.res0 → i ≠ .cclr ∧ i ≠ .cfold)

/-! ## The register window -/

/-- R27: an access of size other than 4, misaligned, below the window or past it is not performed
and stops the model; every other access is performed. -/
def Obligations.OnlyAdmittedAccessesArePerformed : Prop :=
  ∀ (a : Access) (s : State),
    ((a.size = 4 ∧ Config.base ≤ a.addr ∧ (a.addr - Config.base) % 4 = 0 ∧
        a.addr - Config.base < 0x20) →
      ∃ t, performAccess a s = .next t) ∧
    (¬ (a.size = 4 ∧ Config.base ≤ a.addr ∧ (a.addr - Config.base) % 4 = 0 ∧
        a.addr - Config.base < 0x20) →
      performAccess a s = .fault (.busError a))

/-- R25, R28, R31: a read at each offset of the window returns the value of R25's column, which the
host receives, and the block is unchanged. -/
def Obligations.BusReadReturnsTheRegister : Prop :=
  ∀ s : State, ∀ row ∈
    [(0x00, s.opa), (0x04, s.opb), (0x08, 0#32), (0x0C, s.res0), (0x10, s.res1),
     (0x14, s.crc.setWidth 32), (0x18, statusWord s.fault s.cause), (0x1C, 0#32)],
    ∃ t, performAccess { size := 4, addr := Config.base + row.1, data := none } s = .next t ∧
      SameBlock s t ∧ t.host.reads = s.host.reads ++ [row.2]

/-- R29, R94: a write at each offset does what R29 says: OPA and OPB take the value, CMD executes in
READY and does nothing in FAULTED, every other offset does nothing; in INIT the write is held, since
the step is the core's own and the host's lines stay. -/
def Obligations.BusWriteDoesWhatTheOffsetSays : Prop :=
  (∀ (s : State) (v : Word),
    let write (off : Nat) :=
      performAccess { size := 4, addr := Config.base + off, data := some v } s
    write 0x00 = .next { s with opa := v, written := { s.written with opa := true } } ∧
    write 0x04 = .next { s with opb := v, written := { s.written with opb := true } } ∧
    (s.phase = .ready → ∀ i, decode v = .ok i → write 0x08 = exec i s) ∧
    (s.phase = .ready → ∀ e, decode v = .error e → write 0x08 = .next (faultedState 4 true s)) ∧
    (s.phase = .faulted → write 0x08 = .next s) ∧
    (∀ off ∈ [0x0C, 0x10, 0x14, 0x18, 0x1C], write off = .next s)) ∧
  (∀ s : State, s.phase = .init → ∃ t, step s = .next t ∧ t.host = s.host)

/-- R16: STATUS holds FAULT in bit 0, CAUSE in bits 11:8, and 0 in every other bit. -/
def Obligations.StatusWordLayout : Prop :=
  ∀ (fault : Bool) (cause : BitVec 4) (k : Nat),
    (statusWord fault cause).getLsbD k =
      ((k == 0 && fault) || (decide (8 ≤ k ∧ k < 12) && cause.getLsbD (k - 8)))

/-! ## Phases, reset and initialisation -/

/-- R91, R92: what reset leaves, of the values the spec gives: CRC and STATUS 0, phase INIT, and no
value in OPA, OPB, RES0 and RES1 (R23). The last clause, reset applied in any state, is the model's in
three points: one value at every reset for the registers R92 leaves unspecified (log 1) and for TABLE
(log 3), and a host that goes on with its record (log 12), on which a cleared fault stays (log 22). -/
def Obligations.ResetLeavesTheStatedValues : Prop :=
  State.reset.crc = 0x000000 ∧ busRead .status State.reset = 0x00000000 ∧
  State.reset.phase = .init ∧
  State.reset.written = { opa := false, opb := false, res0 := false, res1 := false } ∧
  (∀ s : State, SameBlock State.reset (applyReset s) ∧
    (applyReset s).host = { s.host with faultCleared := s.host.faultCleared || s.fault })

/-- R93, R94: in INIT the one step is the core's initialisation: it never stops, every entry becomes
`genTable` of its index, the phase becomes READY, and nothing else changes, the host's lines
included. -/
def Obligations.InitBuildsTheTableAndHoldsTheHost : Prop :=
  ∀ s : State, s.phase = .init → ∃ t, step s = .next t ∧
    (∀ i : Byte, tableEntry t.table i = genTable i) ∧
    t = { s with table := t.table, phase := .ready }

/-- R17, R37, R40: outside INIT no step but a reset changes TABLE. -/
def Obligations.TableIsImmutableAfterInit : Prop :=
  ∀ s t : State, s.phase ≠ .init → NoResetNext s → step s = .next t → t.table = s.table

/-- R95: a reset and its initialisation rebuild the same table. -/
def Obligations.ResetRebuildsTheSameTable : Prop :=
  ∀ s t : State, BlockInv s → s.phase ≠ .init → step (applyReset s) = .next t →
    ∀ i : Byte, tableEntry t.table i = tableEntry s.table i

/-- R19, R85, R91: INIT ends in READY, READY stays or faults, FAULTED stays, and only reset leads
back to INIT. -/
def Obligations.PhasesChangeOnlyAsStated : Prop :=
  ∀ s t : State, step s = .next t →
    (s.phase = .init → t.phase = .ready) ∧
    (s.phase = .ready → NoResetNext s → t.phase = .ready ∨ t.phase = .faulted) ∧
    (s.phase = .faulted → NoResetNext s → t.phase = .faulted) ∧
    (s.phase ≠ .init → ¬ NoResetNext s → t.phase = .init)

/-- R84, R85, R98: in FAULTED, without a reset, every step keeps STATUS, RES0, RES1, CRC, TABLE and
the phase: no second fault and no command. -/
def Obligations.FaultedBlockKeepsItsResults : Prop :=
  ∀ s t : State, s.phase = .faulted → NoResetNext s → step s = .next t →
    t.phase = .faulted ∧ t.fault = s.fault ∧ t.cause = s.cause ∧ t.res0 = s.res0 ∧
    t.res1 = s.res1 ∧ t.crc = s.crc ∧ t.table = s.table

/-- R84: in FAULTED a write to CMD has no effect, whatever the word, and writes to OPA and OPB still
take effect. -/
def Obligations.FaultedBlockIgnoresCommandsOnly : Prop :=
  ∀ (s : State) (w : Word), s.phase = .faulted →
    busWrite .cmd w s = .next s ∧
    (∃ t, busWrite .opa w s = .next t ∧ busRead .opa t = w ∧ t.phase = .faulted) ∧
    (∃ t, busWrite .opb w s = .next t ∧ busRead .opb t = w ∧ t.phase = .faulted)

/-- R16, R17, R19, R77: every step keeps the block's invariant: the table is built outside INIT,
FAULT agrees with the phase, and CAUSE is a code of R77. -/
def Obligations.EveryStepKeepsTheBlockInvariant : Prop :=
  ∀ s t : State, BlockInv s → step s = .next t → BlockInv t

/-- The block's invariant holds right after reset (R92). -/
def Obligations.ResetSatisfiesTheBlockInvariant : Prop := BlockInv State.reset

/-! ## The host -/

/-- R36, R94, R102: outside INIT a step takes exactly the oldest line off, and the values read so far
stay, in order. -/
def Obligations.LinesArePerformedInOrder : Prop :=
  ∀ (s t : State) (l : Line) (rest : List Line), s.phase ≠ .init →
    s.host.program = l :: rest → step s = .next t →
    t.host.program = rest ∧ s.host.reads <+: t.host.reads

/-- R84, R102: a failed state, one with FAULT = 1 among them, is kept failed by every step, and from it
a host program never ends well, however many steps it takes. That a reset keeps it failed too is the
model's (log 12, log 22). -/
def Obligations.FaultedProgramNeverEndsWell : Prop :=
  (∀ s : State, s.fault = true → Failed s) ∧
  (∀ s t : State, Failed s → step s = .next t → Failed t) ∧
  (∀ (k : Nat) (s t : State), Failed s → core.run k s = .next t → ¬ EndsWell t)

/-- R49, R68: from any READY state with the table built, the HASH pseudo-command, its bytes given as
immediates or under kept names, leaves the hash of the bytes in CRC and under its host name, and the
lines after it remain. -/
def Obligations.HashPseudoCommandComputesTheHash : Prop :=
  ∀ (ops : List Operand) (data : List Byte) (h : HostName) (s : State) (rest : List Line),
    BlockInv s → s.phase = .ready →
    ops.map (operandValue s.host.names) = data.map (fun d => some (d.setWidth 32)) →
    s.host.program = expand (.hash ops h) ++ rest →
    ∃ t : State, core.run (2 * data.length + 2) s = .next t ∧ t.crc = crcHash data ∧
      lookupName h t.host.names = some ((crcHash data).setWidth 32) ∧
      t.phase = .ready ∧ t.host.program = rest

/-- R49, R51: from any READY state, the CONSTRUCT pseudo-command, its positions given as immediates or
under kept names other than its own, leaves under its host name the polynomial with exactly the given
bit positions set. The line for the host's `p := 0` is the model's (log 13). -/
def Obligations.ConstructPseudoCommandSetsExactlyItsBits : Prop :=
  ∀ (ops : List Operand) (positions : List Word) (p : HostName) (s : State) (rest : List Line),
    ops.map (operandValue s.host.names) = positions.map some → Operand.name p ∉ ops →
    (∀ b ∈ positions, b.toNat < 32) → s.phase = .ready →
    s.host.program = expand (.construct ops p) ++ rest →
    ∃ (t : State) (v : Word), core.run (4 * positions.length + 1) s = .next t ∧
      lookupName p t.host.names = some v ∧
      (∀ k, k < 32 → v.getLsbD k = positions.any fun b => b.toNat == k) ∧
      t.phase = .ready ∧ t.host.program = rest

/-- R34, R49: from any READY state, the FRAME pseudo-command, its value given as an immediate or under
a kept name, leaves under its three host names the check bytes of the value, high, middle and low. -/
def Obligations.FramePseudoCommandGivesTheCheckBytes : Prop :=
  ∀ (o : Operand) (v : Crc) (hi mid lo : HostName) (s : State) (rest : List Line),
    hi ≠ mid → hi ≠ lo → mid ≠ lo → s.phase = .ready →
    operandValue s.host.names o = some (v.setWidth 32) →
    s.host.program = expand (.frame o hi mid lo) ++ rest →
    ∃ t : State, core.run 7 s = .next t ∧
      [hi, mid, lo].map (fun n => lookupName n t.host.names) =
        (checkBytes v).map (fun b => some (b.setWidth 32)) ∧
      t.phase = .ready ∧ t.host.program = rest

/-- R48, R102: an `expect` line receives the register's value and records whether it is the one
given, and the block is unchanged. That a line that does not hold is recorded and the program goes on
is the model's (log 11). -/
def Obligations.ExpectRecordsWhetherTheValueHeld : Prop :=
  ∀ (r : BusReg) (o : Operand) (v : Word) (s : State), operandValue s.host.names o = some v →
    ∃ t, performLine (.expect r o) s = .next t ∧ SameBlock s t ∧
      t.host.reads = s.host.reads ++ [busRead r s] ∧
      (t.host.expectsHeld = true ↔ s.host.expectsHeld = true ∧ busRead r s = v)

/-- R100, R102, and the model's record in place of R23's stop (log 2): a use of a register that holds
no value, by a command or a host read, is recorded for good, and a program with one does not end
well. -/
def Obligations.UnwrittenUseIsRecordedForGood : Prop :=
  (∀ s t : State, s.host.unwrittenUse = true → step s = .next t →
    t.host.unwrittenUse = true ∧ ¬ EndsWell t) ∧
  (∀ (r : BusReg) (s : State), holdsValue r s = false →
    ∃ t, performLine (.rd r) s = .next t ∧ t.host.unwrittenUse = true)
end

