-- ==== Sys2Proof/Laws/Gf2.lean ====
section
/-! SUPPORT. The small lemmas of the arithmetic: where it answers, and what an entry of the built
table is. -/

namespace Sys2Proof.Machine

@[simp] theorem deg_zero : deg 0 = none := rfl

theorem deg_eq_none_iff {p : Word} : deg p = none ↔ p = 0 := by
  simp [deg]

theorem pdivrem_eq_none_iff {t b : Word} : pdivrem t b = none ↔ b = 0 := by
  rw [← deg_eq_none_iff]
  cases h : deg b <;> simp [pdivrem, h]

theorem prem_eq_none_iff {t b : Word} : prem t b = none ↔ b = 0 := by
  simp [prem, pdivrem_eq_none_iff]

/-- The loop of a division, for a divisor of known degree. -/
theorem pdivrem_of_deg {t b : Word} {db : Nat} (h : deg b = some db) :
    pdivrem t b = some (pdivremLoop b db 32 t 0) := by
  simp [pdivrem, h]

/-- Every entry of the built table is `genTable` of its index (R93). -/
theorem tableEntry_builtTable (i : Byte) : tableEntry builtTable i = genTable i := by
  simp [tableEntry, builtTable]

@[simp] theorem foldBytes_nil (table : Vector Crc Config.tableSize) (c : Crc) :
    foldBytes table c [] = c := rfl

@[simp] theorem foldBytes_cons (table : Vector Crc Config.tableSize) (c : Crc) (d : Byte)
    (ds : List Byte) : foldBytes table c (d :: ds) = foldBytes table (crcFold table c d) ds := rfl

theorem foldBytes_append (table : Vector Crc Config.tableSize) (c : Crc) (ds es : List Byte) :
    foldBytes table c (ds ++ es) = foldBytes table (foldBytes table c ds) es := by
  simp [foldBytes]

end Sys2Proof.Machine
end

