-- ==== Sys2Proof/Laws/State.lean ====
section
/-! SUPPORT. What each update of the state does to each field, one lemma per field per update, each
true by definition. -/

namespace Sys2Proof.Machine

@[simp] theorem writeOpa_opa (v : Word) (s : State) : (writeOpa v s).opa = v := rfl
@[simp] theorem writeOpa_opb (v : Word) (s : State) : (writeOpa v s).opb = s.opb := rfl
@[simp] theorem writeOpa_res0 (v : Word) (s : State) : (writeOpa v s).res0 = s.res0 := rfl
@[simp] theorem writeOpa_res1 (v : Word) (s : State) : (writeOpa v s).res1 = s.res1 := rfl
@[simp] theorem writeOpa_crc (v : Word) (s : State) : (writeOpa v s).crc = s.crc := rfl
@[simp] theorem writeOpa_fault (v : Word) (s : State) : (writeOpa v s).fault = s.fault := rfl
@[simp] theorem writeOpa_cause (v : Word) (s : State) : (writeOpa v s).cause = s.cause := rfl
@[simp] theorem writeOpa_table (v : Word) (s : State) : (writeOpa v s).table = s.table := rfl
@[simp] theorem writeOpa_phase (v : Word) (s : State) : (writeOpa v s).phase = s.phase := rfl
@[simp] theorem writeOpa_written (v : Word) (s : State) :
    (writeOpa v s).written = { s.written with opa := true } := rfl
@[simp] theorem writeOpa_host (v : Word) (s : State) : (writeOpa v s).host = s.host := rfl

@[simp] theorem writeOpb_opa (v : Word) (s : State) : (writeOpb v s).opa = s.opa := rfl
@[simp] theorem writeOpb_opb (v : Word) (s : State) : (writeOpb v s).opb = v := rfl
@[simp] theorem writeOpb_res0 (v : Word) (s : State) : (writeOpb v s).res0 = s.res0 := rfl
@[simp] theorem writeOpb_res1 (v : Word) (s : State) : (writeOpb v s).res1 = s.res1 := rfl
@[simp] theorem writeOpb_crc (v : Word) (s : State) : (writeOpb v s).crc = s.crc := rfl
@[simp] theorem writeOpb_fault (v : Word) (s : State) : (writeOpb v s).fault = s.fault := rfl
@[simp] theorem writeOpb_cause (v : Word) (s : State) : (writeOpb v s).cause = s.cause := rfl
@[simp] theorem writeOpb_table (v : Word) (s : State) : (writeOpb v s).table = s.table := rfl
@[simp] theorem writeOpb_phase (v : Word) (s : State) : (writeOpb v s).phase = s.phase := rfl
@[simp] theorem writeOpb_written (v : Word) (s : State) :
    (writeOpb v s).written = { s.written with opb := true } := rfl
@[simp] theorem writeOpb_host (v : Word) (s : State) : (writeOpb v s).host = s.host := rfl

@[simp] theorem writeRes0_opa (v : Word) (s : State) : (writeRes0 v s).opa = s.opa := rfl
@[simp] theorem writeRes0_opb (v : Word) (s : State) : (writeRes0 v s).opb = s.opb := rfl
@[simp] theorem writeRes0_res0 (v : Word) (s : State) : (writeRes0 v s).res0 = v := rfl
@[simp] theorem writeRes0_res1 (v : Word) (s : State) : (writeRes0 v s).res1 = s.res1 := rfl
@[simp] theorem writeRes0_crc (v : Word) (s : State) : (writeRes0 v s).crc = s.crc := rfl
@[simp] theorem writeRes0_fault (v : Word) (s : State) : (writeRes0 v s).fault = s.fault := rfl
@[simp] theorem writeRes0_cause (v : Word) (s : State) : (writeRes0 v s).cause = s.cause := rfl
@[simp] theorem writeRes0_table (v : Word) (s : State) : (writeRes0 v s).table = s.table := rfl
@[simp] theorem writeRes0_phase (v : Word) (s : State) : (writeRes0 v s).phase = s.phase := rfl
@[simp] theorem writeRes0_written (v : Word) (s : State) :
    (writeRes0 v s).written = { s.written with res0 := true } := rfl
@[simp] theorem writeRes0_host (v : Word) (s : State) : (writeRes0 v s).host = s.host := rfl

@[simp] theorem writeRes1_opa (v : Word) (s : State) : (writeRes1 v s).opa = s.opa := rfl
@[simp] theorem writeRes1_opb (v : Word) (s : State) : (writeRes1 v s).opb = s.opb := rfl
@[simp] theorem writeRes1_res0 (v : Word) (s : State) : (writeRes1 v s).res0 = s.res0 := rfl
@[simp] theorem writeRes1_res1 (v : Word) (s : State) : (writeRes1 v s).res1 = v := rfl
@[simp] theorem writeRes1_crc (v : Word) (s : State) : (writeRes1 v s).crc = s.crc := rfl
@[simp] theorem writeRes1_fault (v : Word) (s : State) : (writeRes1 v s).fault = s.fault := rfl
@[simp] theorem writeRes1_cause (v : Word) (s : State) : (writeRes1 v s).cause = s.cause := rfl
@[simp] theorem writeRes1_table (v : Word) (s : State) : (writeRes1 v s).table = s.table := rfl
@[simp] theorem writeRes1_phase (v : Word) (s : State) : (writeRes1 v s).phase = s.phase := rfl
@[simp] theorem writeRes1_written (v : Word) (s : State) :
    (writeRes1 v s).written = { s.written with res1 := true } := rfl
@[simp] theorem writeRes1_host (v : Word) (s : State) : (writeRes1 v s).host = s.host := rfl

@[simp] theorem writeCrc_opa (v : Crc) (s : State) : (writeCrc v s).opa = s.opa := rfl
@[simp] theorem writeCrc_opb (v : Crc) (s : State) : (writeCrc v s).opb = s.opb := rfl
@[simp] theorem writeCrc_res0 (v : Crc) (s : State) : (writeCrc v s).res0 = s.res0 := rfl
@[simp] theorem writeCrc_res1 (v : Crc) (s : State) : (writeCrc v s).res1 = s.res1 := rfl
@[simp] theorem writeCrc_crc (v : Crc) (s : State) : (writeCrc v s).crc = v := rfl
@[simp] theorem writeCrc_fault (v : Crc) (s : State) : (writeCrc v s).fault = s.fault := rfl
@[simp] theorem writeCrc_cause (v : Crc) (s : State) : (writeCrc v s).cause = s.cause := rfl
@[simp] theorem writeCrc_table (v : Crc) (s : State) : (writeCrc v s).table = s.table := rfl
@[simp] theorem writeCrc_phase (v : Crc) (s : State) : (writeCrc v s).phase = s.phase := rfl
@[simp] theorem writeCrc_written (v : Crc) (s : State) : (writeCrc v s).written = s.written := rfl
@[simp] theorem writeCrc_host (v : Crc) (s : State) : (writeCrc v s).host = s.host := rfl

@[simp] theorem raiseFault_opa (c : FaultCause) (s : State) : (raiseFault c s).opa = s.opa := rfl
@[simp] theorem raiseFault_opb (c : FaultCause) (s : State) : (raiseFault c s).opb = s.opb := rfl
@[simp] theorem raiseFault_res0 (c : FaultCause) (s : State) : (raiseFault c s).res0 = s.res0 := rfl
@[simp] theorem raiseFault_res1 (c : FaultCause) (s : State) : (raiseFault c s).res1 = s.res1 := rfl
@[simp] theorem raiseFault_crc (c : FaultCause) (s : State) : (raiseFault c s).crc = s.crc := rfl
@[simp] theorem raiseFault_fault (c : FaultCause) (s : State) : (raiseFault c s).fault = true := rfl
@[simp] theorem raiseFault_cause (c : FaultCause) (s : State) :
    (raiseFault c s).cause = causeCode c := rfl
@[simp] theorem raiseFault_table (c : FaultCause) (s : State) :
    (raiseFault c s).table = s.table := rfl
@[simp] theorem raiseFault_phase (c : FaultCause) (s : State) :
    (raiseFault c s).phase = .faulted := rfl
@[simp] theorem raiseFault_written (c : FaultCause) (s : State) :
    (raiseFault c s).written = s.written := rfl
@[simp] theorem raiseFault_host (c : FaultCause) (s : State) : (raiseFault c s).host = s.host := rfl

@[simp] theorem runInit_opa (s : State) : (runInit s).opa = s.opa := rfl
@[simp] theorem runInit_opb (s : State) : (runInit s).opb = s.opb := rfl
@[simp] theorem runInit_res0 (s : State) : (runInit s).res0 = s.res0 := rfl
@[simp] theorem runInit_res1 (s : State) : (runInit s).res1 = s.res1 := rfl
@[simp] theorem runInit_crc (s : State) : (runInit s).crc = s.crc := rfl
@[simp] theorem runInit_fault (s : State) : (runInit s).fault = s.fault := rfl
@[simp] theorem runInit_cause (s : State) : (runInit s).cause = s.cause := rfl
@[simp] theorem runInit_table (s : State) : (runInit s).table = builtTable := rfl
@[simp] theorem runInit_phase (s : State) : (runInit s).phase = .ready := rfl
@[simp] theorem runInit_written (s : State) : (runInit s).written = s.written := rfl
@[simp] theorem runInit_host (s : State) : (runInit s).host = s.host := rfl

@[simp] theorem applyReset_opa (s : State) : (applyReset s).opa = State.reset.opa := rfl
@[simp] theorem applyReset_opb (s : State) : (applyReset s).opb = State.reset.opb := rfl
@[simp] theorem applyReset_res0 (s : State) : (applyReset s).res0 = State.reset.res0 := rfl
@[simp] theorem applyReset_res1 (s : State) : (applyReset s).res1 = State.reset.res1 := rfl
@[simp] theorem applyReset_crc (s : State) : (applyReset s).crc = State.reset.crc := rfl
@[simp] theorem applyReset_fault (s : State) : (applyReset s).fault = State.reset.fault := rfl
@[simp] theorem applyReset_cause (s : State) : (applyReset s).cause = State.reset.cause := rfl
@[simp] theorem applyReset_table (s : State) : (applyReset s).table = State.reset.table := rfl
@[simp] theorem applyReset_phase (s : State) : (applyReset s).phase = State.reset.phase := rfl
@[simp] theorem applyReset_written (s : State) : (applyReset s).written = State.reset.written := rfl
@[simp] theorem applyReset_host (s : State) : (applyReset s).host =
    { s.host with faultCleared := s.host.faultCleared || s.fault } := rfl

@[simp] theorem noteUse_opa (b : Bool) (s : State) : (noteUse b s).opa = s.opa := rfl
@[simp] theorem noteUse_opb (b : Bool) (s : State) : (noteUse b s).opb = s.opb := rfl
@[simp] theorem noteUse_res0 (b : Bool) (s : State) : (noteUse b s).res0 = s.res0 := rfl
@[simp] theorem noteUse_res1 (b : Bool) (s : State) : (noteUse b s).res1 = s.res1 := rfl
@[simp] theorem noteUse_crc (b : Bool) (s : State) : (noteUse b s).crc = s.crc := rfl
@[simp] theorem noteUse_fault (b : Bool) (s : State) : (noteUse b s).fault = s.fault := rfl
@[simp] theorem noteUse_cause (b : Bool) (s : State) : (noteUse b s).cause = s.cause := rfl
@[simp] theorem noteUse_table (b : Bool) (s : State) : (noteUse b s).table = s.table := rfl
@[simp] theorem noteUse_phase (b : Bool) (s : State) : (noteUse b s).phase = s.phase := rfl
@[simp] theorem noteUse_written (b : Bool) (s : State) : (noteUse b s).written = s.written := rfl
@[simp] theorem noteUse_host (b : Bool) (s : State) :
    (noteUse b s).host = { s.host with unwrittenUse := s.host.unwrittenUse || !b } := rfl

@[simp] theorem useOpa_opa (s : State) : (useOpa s).opa = s.opa := rfl
@[simp] theorem useOpa_opb (s : State) : (useOpa s).opb = s.opb := rfl
@[simp] theorem useOpa_res0 (s : State) : (useOpa s).res0 = s.res0 := rfl
@[simp] theorem useOpa_res1 (s : State) : (useOpa s).res1 = s.res1 := rfl
@[simp] theorem useOpa_crc (s : State) : (useOpa s).crc = s.crc := rfl
@[simp] theorem useOpa_fault (s : State) : (useOpa s).fault = s.fault := rfl
@[simp] theorem useOpa_cause (s : State) : (useOpa s).cause = s.cause := rfl
@[simp] theorem useOpa_table (s : State) : (useOpa s).table = s.table := rfl
@[simp] theorem useOpa_phase (s : State) : (useOpa s).phase = s.phase := rfl
@[simp] theorem useOpa_written (s : State) : (useOpa s).written = s.written := rfl
@[simp] theorem useOpa_host (s : State) :
    (useOpa s).host = { s.host with unwrittenUse := s.host.unwrittenUse || !s.written.opa } := rfl

@[simp] theorem useOpb_opa (s : State) : (useOpb s).opa = s.opa := rfl
@[simp] theorem useOpb_opb (s : State) : (useOpb s).opb = s.opb := rfl
@[simp] theorem useOpb_res0 (s : State) : (useOpb s).res0 = s.res0 := rfl
@[simp] theorem useOpb_res1 (s : State) : (useOpb s).res1 = s.res1 := rfl
@[simp] theorem useOpb_crc (s : State) : (useOpb s).crc = s.crc := rfl
@[simp] theorem useOpb_fault (s : State) : (useOpb s).fault = s.fault := rfl
@[simp] theorem useOpb_cause (s : State) : (useOpb s).cause = s.cause := rfl
@[simp] theorem useOpb_table (s : State) : (useOpb s).table = s.table := rfl
@[simp] theorem useOpb_phase (s : State) : (useOpb s).phase = s.phase := rfl
@[simp] theorem useOpb_written (s : State) : (useOpb s).written = s.written := rfl
@[simp] theorem useOpb_host (s : State) :
    (useOpb s).host = { s.host with unwrittenUse := s.host.unwrittenUse || !s.written.opb } := rfl

@[simp] theorem deliverRead_opa (r : BusReg) (s : State) : (deliverRead r s).opa = s.opa := rfl
@[simp] theorem deliverRead_opb (r : BusReg) (s : State) : (deliverRead r s).opb = s.opb := rfl
@[simp] theorem deliverRead_res0 (r : BusReg) (s : State) : (deliverRead r s).res0 = s.res0 := rfl
@[simp] theorem deliverRead_res1 (r : BusReg) (s : State) : (deliverRead r s).res1 = s.res1 := rfl
@[simp] theorem deliverRead_crc (r : BusReg) (s : State) : (deliverRead r s).crc = s.crc := rfl
@[simp] theorem deliverRead_fault (r : BusReg) (s : State) :
    (deliverRead r s).fault = s.fault := rfl
@[simp] theorem deliverRead_cause (r : BusReg) (s : State) :
    (deliverRead r s).cause = s.cause := rfl
@[simp] theorem deliverRead_table (r : BusReg) (s : State) :
    (deliverRead r s).table = s.table := rfl
@[simp] theorem deliverRead_phase (r : BusReg) (s : State) :
    (deliverRead r s).phase = s.phase := rfl
@[simp] theorem deliverRead_written (r : BusReg) (s : State) :
    (deliverRead r s).written = s.written := rfl
@[simp] theorem deliverRead_host (r : BusReg) (s : State) :
    (deliverRead r s).host = { s.host with
      unwrittenUse := s.host.unwrittenUse || !holdsValue r s, reads := s.host.reads ++ [busRead r s] } := rfl

@[simp] theorem keepName_opa (n : HostName) (v : Word) (s : State) :
    (keepName n v s).opa = s.opa := rfl
@[simp] theorem keepName_opb (n : HostName) (v : Word) (s : State) :
    (keepName n v s).opb = s.opb := rfl
@[simp] theorem keepName_res0 (n : HostName) (v : Word) (s : State) :
    (keepName n v s).res0 = s.res0 := rfl
@[simp] theorem keepName_res1 (n : HostName) (v : Word) (s : State) :
    (keepName n v s).res1 = s.res1 := rfl
@[simp] theorem keepName_crc (n : HostName) (v : Word) (s : State) :
    (keepName n v s).crc = s.crc := rfl
@[simp] theorem keepName_fault (n : HostName) (v : Word) (s : State) :
    (keepName n v s).fault = s.fault := rfl
@[simp] theorem keepName_cause (n : HostName) (v : Word) (s : State) :
    (keepName n v s).cause = s.cause := rfl
@[simp] theorem keepName_table (n : HostName) (v : Word) (s : State) :
    (keepName n v s).table = s.table := rfl
@[simp] theorem keepName_phase (n : HostName) (v : Word) (s : State) :
    (keepName n v s).phase = s.phase := rfl
@[simp] theorem keepName_written (n : HostName) (v : Word) (s : State) :
    (keepName n v s).written = s.written := rfl
@[simp] theorem keepName_host (n : HostName) (v : Word) (s : State) :
    (keepName n v s).host = { s.host with names := (n, v) :: s.host.names } := rfl

@[simp] theorem noteExpect_opa (b : Bool) (s : State) : (noteExpect b s).opa = s.opa := rfl
@[simp] theorem noteExpect_opb (b : Bool) (s : State) : (noteExpect b s).opb = s.opb := rfl
@[simp] theorem noteExpect_res0 (b : Bool) (s : State) : (noteExpect b s).res0 = s.res0 := rfl
@[simp] theorem noteExpect_res1 (b : Bool) (s : State) : (noteExpect b s).res1 = s.res1 := rfl
@[simp] theorem noteExpect_crc (b : Bool) (s : State) : (noteExpect b s).crc = s.crc := rfl
@[simp] theorem noteExpect_fault (b : Bool) (s : State) : (noteExpect b s).fault = s.fault := rfl
@[simp] theorem noteExpect_cause (b : Bool) (s : State) : (noteExpect b s).cause = s.cause := rfl
@[simp] theorem noteExpect_table (b : Bool) (s : State) : (noteExpect b s).table = s.table := rfl
@[simp] theorem noteExpect_phase (b : Bool) (s : State) : (noteExpect b s).phase = s.phase := rfl
@[simp] theorem noteExpect_written (b : Bool) (s : State) :
    (noteExpect b s).written = s.written := rfl
@[simp] theorem noteExpect_host (b : Bool) (s : State) :
    (noteExpect b s).host = { s.host with expectsHeld := s.host.expectsHeld && b } := rfl

@[simp] theorem setProgram_opa (lines : List Line) (s : State) :
    (setProgram lines s).opa = s.opa := rfl
@[simp] theorem setProgram_opb (lines : List Line) (s : State) :
    (setProgram lines s).opb = s.opb := rfl
@[simp] theorem setProgram_res0 (lines : List Line) (s : State) :
    (setProgram lines s).res0 = s.res0 := rfl
@[simp] theorem setProgram_res1 (lines : List Line) (s : State) :
    (setProgram lines s).res1 = s.res1 := rfl
@[simp] theorem setProgram_crc (lines : List Line) (s : State) :
    (setProgram lines s).crc = s.crc := rfl
@[simp] theorem setProgram_fault (lines : List Line) (s : State) :
    (setProgram lines s).fault = s.fault := rfl
@[simp] theorem setProgram_cause (lines : List Line) (s : State) :
    (setProgram lines s).cause = s.cause := rfl
@[simp] theorem setProgram_table (lines : List Line) (s : State) :
    (setProgram lines s).table = s.table := rfl
@[simp] theorem setProgram_phase (lines : List Line) (s : State) :
    (setProgram lines s).phase = s.phase := rfl
@[simp] theorem setProgram_written (lines : List Line) (s : State) :
    (setProgram lines s).written = s.written := rfl
@[simp] theorem setProgram_host (lines : List Line) (s : State) :
    (setProgram lines s).host = { s.host with program := lines } := rfl

end Sys2Proof.Machine
end

