-- ==== Sys2Proof/Laws/Ops.lean ====
section
/-! SUPPORT. Everything a shared operation, a command and a line can do, said once each. -/

namespace Sys2Proof.Machine

variable {s t : State} {w : Word}

/-! ## Phases -/

theorem whenReady_of_ready {f : State → Host.Outcome State Fault Refusal} (h : s.phase = .ready) :
    whenReady s f = f s := by
  simp [whenReady, h]

theorem whenReady_of_not_ready {f : State → Host.Outcome State Fault Refusal}
    (h : s.phase ≠ .ready) : whenReady s f = .next s := by
  cases hp : s.phase <;> simp_all [whenReady]

/-- What runs only in READY either runs there or leaves the state alone. -/
theorem whenReady_cases (f : State → Host.Outcome State Fault Refusal) :
    (s.phase = .ready ∧ whenReady s f = f s) ∨ (s.phase ≠ .ready ∧ whenReady s f = .next s) := by
  by_cases h : s.phase = .ready
  · exact .inl ⟨h, whenReady_of_ready h⟩
  · exact .inr ⟨h, whenReady_of_not_ready h⟩

/-! ## Commands -/

/-- Outside READY a command changes nothing (R84). -/
theorem exec_of_not_ready (i : Instr) (h : s.phase ≠ .ready) : exec i s = .next s := by
  cases i <;> simp only [exec, execPbit, execDegree, execPmul, execDivrem, execPrem, execTread,
    execCclr, execCfold, execHighb, execMidb, execLowb, whenReady_of_not_ready h]

/-! What each command answers in READY, one equation each. -/

theorem exec_pbit_of_ready (h : s.phase = .ready) :
    exec .pbit s = match pos s with
      | none => .next (raiseFault .operandRange (useOpb (useOpa s)))
      | some n => .next (writeRes0 (s.opa ||| (1#32 <<< n)) (useOpb (useOpa s))) := by
  cases hx : pos s <;> simp only [exec, execPbit, whenReady_of_ready h, a32, hx]

theorem exec_degree_of_ready (h : s.phase = .ready) :
    exec .degree s = match deg s.opa with
      | none => .next (raiseFault .invalidOperand (useOpa s))
      | some n => .next (writeRes0 (BitVec.ofNat 32 n) (useOpa s)) := by
  cases hx : deg s.opa <;> simp only [exec, execDegree, whenReady_of_ready h, a32, hx]

theorem exec_pmul_of_ready (h : s.phase = .ready) :
    exec .pmul s = .next (writeRes0 (pmul s.opa s.opb) (useOpb (useOpa s))) := by
  simp only [exec, execPmul, whenReady_of_ready h, a32, b32]

theorem exec_divrem_of_ready (h : s.phase = .ready) :
    exec .divrem s = match pdivrem s.opa s.opb with
      | none => .next (raiseFault .divisionByZero (useOpb (useOpa s)))
      | some (q, r) => .next (writeRes1 r (writeRes0 q (useOpb (useOpa s)))) := by
  cases hx : pdivrem s.opa s.opb <;> simp only [exec, execDivrem, whenReady_of_ready h, a32, b32, hx]

theorem exec_prem_of_ready (h : s.phase = .ready) :
    exec .prem s = match prem s.opa s.opb with
      | none => .next (raiseFault .divisionByZero (useOpb (useOpa s)))
      | some r => .next (writeRes0 r (useOpb (useOpa s))) := by
  cases hx : prem s.opa s.opb <;> simp only [exec, execPrem, whenReady_of_ready h, a32, b32, hx]

theorem exec_tread_of_ready (h : s.phase = .ready) :
    exec .tread s = .next (writeRes0 (zext32 (tableEntry s.table (byteA s))) (useOpa s)) := by
  simp only [exec, execTread, whenReady_of_ready h]

theorem exec_cclr_of_ready (h : s.phase = .ready) :
    exec .cclr s = .next (writeCrc 0x000000 s) := by
  simp only [exec, execCclr, whenReady_of_ready h]

theorem exec_cfold_of_ready (h : s.phase = .ready) :
    exec .cfold s = .next (writeCrc (crcFold s.table s.crc (byteA s)) (useOpa s)) := by
  simp only [exec, execCfold, whenReady_of_ready h]

theorem exec_highb_of_ready (h : s.phase = .ready) :
    exec .highb s = .next (writeRes0 (zext32 (highByte (v24 s))) (useOpa s)) := by
  simp only [exec, execHighb, whenReady_of_ready h]

theorem exec_midb_of_ready (h : s.phase = .ready) :
    exec .midb s = .next (writeRes0 (zext32 (midByte (v24 s))) (useOpa s)) := by
  simp only [exec, execMidb, whenReady_of_ready h]

theorem exec_lowb_of_ready (h : s.phase = .ready) :
    exec .lowb s = .next (writeRes0 (zext32 (lowByte (v24 s))) (useOpa s)) := by
  simp only [exec, execLowb, whenReady_of_ready h]

/-- The ways a command can end in READY: with a fault, or with the one result it writes. -/
inductive CommandEffect (i : Instr) (s : State) : State → Prop where
  /-- The operand check failed. -/
  | fault (c : FaultCause) (used : State) (huse : used = useOpa s ∨ used = useOpb (useOpa s)) :
      CommandEffect i s (raiseFault c used)
  /-- RES0 is written. -/
  | res0 (v : Word) (used : State) (huse : used = useOpa s ∨ used = useOpb (useOpa s))
      (hi : i ≠ .cclr ∧ i ≠ .cfold) : CommandEffect i s (writeRes0 v used)
  /-- DIVREM writes RES0 and RES1. -/
  | both (q r : Word) (hi : i = .divrem) :
      CommandEffect i s (writeRes1 r (writeRes0 q (useOpb (useOpa s))))
  /-- CCLR and CFOLD write CRC. -/
  | crc (v : Crc) (used : State) (huse : used = s ∨ used = useOpa s)
      (hi : i = .cclr ∨ i = .cfold) : CommandEffect i s (writeCrc v used)

/-- Every command answers a next state in READY, and that state is one of the four effects. -/
theorem exec_effect (i : Instr) (h : s.phase = .ready) :
    ∃ t, exec i s = .next t ∧ CommandEffect i s t := by
  cases i with
  | pbit =>
    rw [exec_pbit_of_ready h]
    cases pos s with
    | none => exact ⟨_, rfl, .fault _ _ (.inr rfl)⟩
    | some n => exact ⟨_, rfl, .res0 _ _ (.inr rfl) (by decide)⟩
  | degree =>
    rw [exec_degree_of_ready h]
    cases deg s.opa with
    | none => exact ⟨_, rfl, .fault _ _ (.inl rfl)⟩
    | some n => exact ⟨_, rfl, .res0 _ _ (.inl rfl) (by decide)⟩
  | divrem =>
    rw [exec_divrem_of_ready h]
    cases pdivrem s.opa s.opb with
    | none => exact ⟨_, rfl, .fault _ _ (.inr rfl)⟩
    | some qr => exact ⟨_, rfl, .both qr.1 qr.2 rfl⟩
  | prem =>
    rw [exec_prem_of_ready h]
    cases prem s.opa s.opb with
    | none => exact ⟨_, rfl, .fault _ _ (.inr rfl)⟩
    | some r => exact ⟨_, rfl, .res0 _ _ (.inr rfl) (by decide)⟩
  | pmul => exact ⟨_, exec_pmul_of_ready h, .res0 _ _ (.inr rfl) (by decide)⟩
  | tread => exact ⟨_, exec_tread_of_ready h, .res0 _ _ (.inl rfl) (by decide)⟩
  | highb => exact ⟨_, exec_highb_of_ready h, .res0 _ _ (.inl rfl) (by decide)⟩
  | midb => exact ⟨_, exec_midb_of_ready h, .res0 _ _ (.inl rfl) (by decide)⟩
  | lowb => exact ⟨_, exec_lowb_of_ready h, .res0 _ _ (.inl rfl) (by decide)⟩
  | cclr => exact ⟨_, exec_cclr_of_ready h, .crc _ _ (.inl rfl) (.inl rfl)⟩
  | cfold => exact ⟨_, exec_cfold_of_ready h, .crc _ _ (.inr rfl) (.inr rfl)⟩

/-- A command that answers a next state left the state alone, or had one of the four effects. -/
theorem exec_next_cases {i : Instr} (h : exec i s = .next t) :
    t = s ∨ (s.phase = .ready ∧ CommandEffect i s t) := by
  by_cases hp : s.phase = .ready
  · obtain ⟨u, hu, he⟩ := exec_effect i hp
    cases hu.symm.trans h
    exact .inr ⟨hp, he⟩
  · cases (exec_of_not_ready i hp).symm.trans h
    exact .inl rfl

/-- Everything a write to CMD can do: nothing outside READY, IllegalCommand on a word that is no
command, and otherwise the decoded command. -/
theorem issueCommand_cases (w : Word) (s : State) :
    (s.phase ≠ .ready ∧ issueCommand w s = .next s) ∨
    (s.phase = .ready ∧ (∃ e, decode w = .error e) ∧
      issueCommand w s = .next (raiseFault .illegalCommand s)) ∨
    (∃ i, s.phase = .ready ∧ decode w = .ok i ∧ issueCommand w s = exec i s) := by
  by_cases h : s.phase = .ready
  · refine .inr ?_
    simp only [issueCommand, whenReady_of_ready h]
    cases decode w with
    | error e => exact .inl ⟨h, ⟨e, rfl⟩, rfl⟩
    | ok i => exact .inr ⟨i, h, rfl, rfl⟩
  · exact .inl ⟨h, whenReady_of_not_ready h⟩

/-! ## Host lines -/

theorem withOperand_imm (v : Word) (s : State) (f : Word → Host.Outcome State Fault Refusal) :
    withOperand (.imm v) s f = f v := rfl

/-- An operand that has a value hands it on. -/
theorem withOperand_of_value {o : Operand} {v : Word}
    (h : operandValue s.host.names o = some v) (f : Word → Host.Outcome State Fault Refusal) :
    withOperand o s f = f v := by
  cases o with
  | imm u => cases h; rfl
  | name n =>
    have h : lookupName n s.host.names = some v := h
    simp only [withOperand, h]

/-- An operand that yields a next state had a value. -/
theorem withOperand_next {o : Operand} {f : Word → Host.Outcome State Fault Refusal}
    (h : withOperand o s f = .next t) : ∃ v, f v = .next t := by
  cases o with
  | imm v => exact ⟨v, h⟩
  | name n =>
    simp only [withOperand] at h
    cases hl : lookupName n s.host.names with
    | none => simp [hl] at h
    | some v => exact ⟨v, by simpa [hl] using h⟩

/-- Every register of the window is reached by an aligned 32-bit access at its offset (R25, R27). -/
theorem accessReg_regOffset (r : BusReg) (data : Option Word) :
    accessReg { size := 4, addr := Config.base + regOffset r, data := data } = some r := by
  cases r <;> simp [accessReg, admitted, regOffset, regAt, Config.window]

/-- Everything a line other than a reset can do when it answers a next state: a write to OPA, OPB or
CMD, or an update of the host's own record, which keeps the lines left, adds to the values read, and
forgets neither a use of an unwritten register nor a cleared fault. -/
inductive LineEffect (s : State) : State → Prop where
  | opa (v : Word) : LineEffect s (writeOpa v s)
  | opb (v : Word) : LineEffect s (writeOpb v s)
  | cmd (w : Word) (t : State) (h : issueCommand w s = .next t) : LineEffect s t
  | host (h : HostState) (hprogram : h.program = s.host.program) (hreads : s.host.reads <+: h.reads)
      (hunwritten : s.host.unwrittenUse = true → h.unwrittenUse = true)
      (hcleared : h.faultCleared = s.host.faultCleared) :
      LineEffect s { s with host := h }

theorem busWrite_effect {r : BusReg} (h : busWrite r w s = .next t) : LineEffect s t := by
  cases r with
  | opa => cases h; exact .opa w
  | opb => cases h; exact .opb w
  | cmd => exact .cmd w t h
  | res0 | res1 | crc | status | reserved => cases h; exact .host s.host rfl List.prefix_rfl id rfl

theorem deliverRead_effect (r : BusReg) (s : State) : LineEffect s (deliverRead r s) :=
  .host (deliverRead r s).host rfl (List.prefix_append _ _) (fun h => by simp [h]) rfl

theorem performAccess_effect {a : Access} (h : performAccess a s = .next t) : LineEffect s t := by
  unfold performAccess at h
  split at h
  · cases h
  · split at h
    · cases h; exact deliverRead_effect _ s
    · exact busWrite_effect h

/-- What a line can do: a reset, or one of the effects above. -/
theorem performLine_cases {l : Line} (h : performLine l s = .next t) :
    (l = .reset ∧ t = applyReset s) ∨ (l ≠ .reset ∧ LineEffect s t) := by
  cases l with
  | wrOpa v => exact .inr ⟨nofun, busWrite_effect (withOperand_next h).choose_spec⟩
  | wrOpb v => exact .inr ⟨nofun, busWrite_effect (withOperand_next h).choose_spec⟩
  | wrCmd v => exact .inr ⟨nofun, busWrite_effect (withOperand_next h).choose_spec⟩
  | command i => exact .inr ⟨nofun, busWrite_effect (r := .cmd) h⟩
  | rd r => cases h; exact .inr ⟨nofun, deliverRead_effect r s⟩
  | rdTo r n =>
    cases h
    exact .inr ⟨nofun, .host (keepName n (busRead r s) (deliverRead r s)).host rfl
      (List.prefix_append _ _) (fun h => by simp [h]) rfl⟩
  | expect r v =>
    obtain ⟨v, hv⟩ := withOperand_next h
    cases hv
    exact .inr ⟨nofun, .host (noteExpect (busRead r s == v) (deliverRead r s)).host rfl
      (List.prefix_append _ _) (fun h => by simp [h]) rfl⟩
  | access a => exact .inr ⟨nofun, performAccess_effect h⟩
  | assign n v =>
    cases h
    exact .inr ⟨nofun, .host (keepName n v s).host rfl List.prefix_rfl id rfl⟩
  | reset => cases h; exact .inl ⟨rfl, rfl⟩

/-! ## The step -/

/-- Everything a step can do when it answers a next state: initialisation in INIT, nothing when the
host has nothing left to do, and otherwise the host's next line. -/
theorem step_cases (h : step s = .next t) :
    (s.phase = .init ∧ t = runInit s) ∨
    (s.phase ≠ .init ∧ s.host.program = [] ∧ t = s) ∨
    (∃ l rest, s.phase ≠ .init ∧ s.host.program = l :: rest ∧
      performLine l (setProgram rest s) = .next t) := by
  have awake (hp : s.phase ≠ .init) (h : hostStep s = .next t) :
      (s.phase ≠ .init ∧ s.host.program = [] ∧ t = s) ∨
      (∃ l rest, s.phase ≠ .init ∧ s.host.program = l :: rest ∧
        performLine l (setProgram rest s) = .next t) := by
    unfold hostStep at h
    split at h
    · next hprog => cases h; exact .inl ⟨hp, hprog, rfl⟩
    · next l rest hprog => exact .inr ⟨l, rest, hp, hprog, h⟩
  cases hp : s.phase with
  | init =>
    simp only [step, stepOnce, hp, Host.Outcome.next.injEq] at h
    exact .inl ⟨rfl, h.symm⟩
  | ready | faulted =>
    simp only [step, stepOnce, hp] at h
    simpa [hp] using awake (by simp [hp]) h

theorem step_of_init (h : s.phase = .init) : step s = .next (runInit s) := by
  simp [step, stepOnce, h]

/-- Outside INIT a step performs the host's next line. -/
theorem step_of_line {l : Line} {rest : List Line} (hp : s.phase ≠ .init)
    (h : s.host.program = l :: rest) : step s = performLine l (setProgram rest s) := by
  cases hs : s.phase <;> simp_all [step, stepOnce, hostStep]

/-- Outside INIT, with no line left, a step changes nothing. -/
theorem step_of_idle (hp : s.phase ≠ .init) (h : s.host.program = []) : step s = .next s := by
  cases hs : s.phase <;> simp_all [step, stepOnce, hostStep]

end Sys2Proof.Machine
end

