-- ==== Sys2Proof/Laws/PerInstr.lean ====
section
/-! SUPPORT. The form of each command word (30_encoding.md R41, R44), one lemma per command. -/

namespace Sys2Proof.Laws.WordForm

/-- A command's word has a zero `RSV` field, its opcode is assigned to it in the opcode map, and the
command is well formed. -/
def Statement (i : Instr) : Prop :=
  rsvField (encode i) = 0 ∧ (opcField (encode i), i) ∈ opcodeMap ∧ i.wf = true

theorem pbit : Statement .pbit := by unfold Statement; decide

theorem degree : Statement .degree := by unfold Statement; decide

theorem pmul : Statement .pmul := by unfold Statement; decide

theorem divrem : Statement .divrem := by unfold Statement; decide

theorem prem : Statement .prem := by unfold Statement; decide

theorem tread : Statement .tread := by unfold Statement; decide

theorem cclr : Statement .cclr := by unfold Statement; decide

theorem cfold : Statement .cfold := by unfold Statement; decide

theorem highb : Statement .highb := by unfold Statement; decide

theorem midb : Statement .midb := by unfold Statement; decide

theorem lowb : Statement .lowb := by unfold Statement; decide

end Sys2Proof.Laws.WordForm

namespace Sys2Proof

/-- No opcode is assigned twice (R44). -/
theorem opcodeMap_nodup : (opcodeMap.map Prod.fst).Nodup := by decide

/-- A word is its two fields (R41). -/
theorem word_eq_fields (w : Word) : w = rsvField w ++ opcField w := by
  refine BitVec.eq_of_getLsbD_eq fun k hk => ?_
  simp only [rsvField, opcField, BitVec.getLsbD_append, BitVec.getLsbD_extractLsb']
  by_cases h : k < 8
  · simp [h]
  · have hk' : k - 8 < 24 := by omega
    simp [h, hk', show 8 + (k - 8) = k by omega]

end Sys2Proof
end

