-- ==== Sys2Proof/Laws/PolyRep.lean ====
section
/-! SUPPORT. Every word and every message has the polynomial that stands for it. -/

namespace Sys2Proof.Machine

/-- A family of bits that is zero from `n` on has a polynomial with those coefficients. -/
theorem exists_poly_of_bits (n : Nat) (bit : Nat → Bool) (h : ∀ k, n ≤ k → bit k = false) :
    ∃ p : Polynomial (ZMod 2), ∀ k, p.coeff k = if bit k then 1 else 0 := by
  refine ⟨∑ i ∈ Finset.range n, if bit i then Polynomial.X ^ i else 0, fun k => ?_⟩
  rw [Polynomial.finsetSum_coeff]
  by_cases hk : k < n
  · rw [Finset.sum_eq_single k]
    · split <;> simp
    · intro i _ hik
      split <;> simp [Polynomial.coeff_X_pow, Ne.symm hik]
    · simp [hk]
  · rw [h k (Nat.le_of_not_lt hk), Finset.sum_eq_zero]
    · simp
    · intro i hi
      have : k ≠ i := by rintro rfl; exact hk (Finset.mem_range.1 hi)
      split <;> simp [Polynomial.coeff_X_pow, this]

/-- Every word has its polynomial (R5). -/
theorem exists_represents {n : Nat} (v : BitVec n) : ∃ p, Represents v p :=
  exists_poly_of_bits n v.getLsbD fun _ h => BitVec.getLsbD_of_ge v _ h

/-- A message of `n` bytes has no bit from `8 n` on. -/
theorem messageBit_of_ge (data : List Byte) (k : Nat) (h : 8 * data.length ≤ k) :
    messageBit data k = false := by
  have hk : data.reverse[k / 8]? = none := by
    rw [List.getElem?_eq_none_iff, List.length_reverse]
    omega
  simp [messageBit, hk]

/-- Every message has its polynomial (R70). -/
theorem exists_messagePoly (data : List Byte) : ∃ p, IsMessagePoly data p :=
  exists_poly_of_bits (8 * data.length) (messageBit data) (messageBit_of_ge data)

end Sys2Proof.Machine
end

