-- ==== Sys2Proof/Machine/Assembler.lean ====
section
/-! DEFINITION. The text of host programs (30_encoding.md R48, R49): from characters to lines. Log 15. -/

namespace Sys2Proof.Machine

/-- The mnemonic of a command (R44). -/
def mnemonic : Instr → String
  | .pbit => "PBIT"
  | .degree => "DEGREE"
  | .pmul => "PMUL"
  | .divrem => "DIVREM"
  | .prem => "PREM"
  | .tread => "TREAD"
  | .cclr => "CCLR"
  | .cfold => "CFOLD"
  | .highb => "HIGHB"
  | .midb => "MIDB"
  | .lowb => "LOWB"

/-- A command by its mnemonic. -/
def commandNamed (t : List Char) : Option Instr := Instr.all.find? fun i => (mnemonic i).toList == t

/-- A register by its name (R48); the reserved word has none. -/
def registerNamed (t : List Char) : Option BusReg :=
  if t == "OPA".toList then some .opa
  else if t == "OPB".toList then some .opb
  else if t == "CMD".toList then some .cmd
  else if t == "RES0".toList then some .res0
  else if t == "RES1".toList then some .res1
  else if t == "CRC".toList then some .crc
  else if t == "STATUS".toList then some .status
  else none

/-- The value of a hexadecimal digit. -/
def hexDigit (c : Char) : Option Nat :=
  if '0' ≤ c ∧ c ≤ '9' then some (c.toNat - '0'.toNat)
  else if 'a' ≤ c ∧ c ≤ 'f' then some (c.toNat - 'a'.toNat + 10)
  else if 'A' ≤ c ∧ c ≤ 'F' then some (c.toNat - 'A'.toNat + 10)
  else none

/-- Digits in a base, most significant first, onto a value already read. -/
def digits (base : Nat) : (value : Nat) → List Char → Option Nat
  | value, [] => some value
  | value, c :: cs =>
    match hexDigit c with
    | some d => if d < base then digits base (value * base + d) cs else none
    | none => none

/-- An immediate (R48): hexadecimal after `0x`, otherwise decimal, and it fits 32 bits. -/
def immediate (t : List Char) : Option Word :=
  let value := match t with
    | [] => none
    | '0' :: 'x' :: c :: cs => digits 16 0 (c :: cs)
    | c :: cs => digits 10 0 (c :: cs)
  match value with
  | some n => if n < 2 ^ 32 then some (BitVec.ofNat 32 n) else none
  | none => none

/-- A character a host name may begin with. -/
def nameStart (c : Char) : Bool := c.isAlpha || c == '_'

/-- A host name: a letter or underscore, then letters, digits and underscores. -/
def hostName (t : List Char) : Option HostName :=
  match t with
  | [] => none
  | c :: cs => if nameStart c && cs.all (fun d => nameStart d || d.isDigit) then some t else none

/-- What may stand where an immediate stands (R48). -/
def operandOf (t : List Char) : Option Operand :=
  match immediate t with
  | some v => some (.imm v)
  | none => (hostName t).map .name

/-- The opening and closing braces of CONSTRUCT's set, by their character codes. -/
def openBrace : Char := Char.ofNat 123

def closeBrace : Char := Char.ofNat 125

/-- Add a finished token (its characters reversed) in front of the rest. -/
def pushToken (current : List Char) (rest : List (List Char)) : List (List Char) :=
  if current.isEmpty then rest else current.reverse :: rest

/-- The tokens of one line: words between blanks, with comma and braces on their own, up to the
comment (R48). -/
def tokens : (current : List Char) → List Char → List (List Char)
  | current, [] => pushToken current []
  | current, c :: cs =>
    if c == ';' then pushToken current []
    else if c.isWhitespace then pushToken current (tokens [] cs)
    else if c == ',' || c == openBrace || c == closeBrace then
      pushToken current ([c] :: tokens [] cs)
    else tokens (c :: current) cs

/-- Items separated by commas, each read by `item`; none at all is the empty list. -/
def commaTail {α : Type} (item : List Char → Option α) : List (List Char) → Option (List α)
  | [] => some []
  | [_] => none
  | comma :: t :: rest =>
    if comma == [','] then
      match item t, commaTail item rest with
      | some a, some more => some (a :: more)
      | _, _ => none
    else none

/-- A list of items separated by commas. -/
def commaList {α : Type} (item : List Char → Option α) : List (List Char) → Option (List α)
  | [] => some []
  | t :: rest =>
    match item t, commaTail item rest with
    | some a, some more => some (a :: more)
    | _, _ => none

/-- A byte operand of HASH. -/
def byteOperand (t : List Char) : Option Operand :=
  match operandOf t with
  | some o => if o.isByte then some o else none
  | none => none

/-- A bit position operand of CONSTRUCT. -/
def bitPosition (t : List Char) : Option Operand :=
  match operandOf t with
  | some o => if o.isPosition then some o else none
  | none => none

/-- `wr <REG>, v`, for the three registers the host writes by name (R48). -/
def writeLine (reg v : List Char) : Option Line :=
  match registerNamed reg, operandOf v with
  | some .opa, some o => some (.wrOpa o)
  | some .opb, some o => some (.wrOpb o)
  | some .cmd, some o => some (.wrCmd o)
  | _, _ => none

/-- HASH, with its result kept under the name `h` (R49). -/
def parseHash (ts : List (List Char)) : Option Pseudo :=
  (commaList byteOperand ts).map fun ds => .hash ds ['h']

/-- CONSTRUCT, with its result kept under the name `p` (R49). -/
def parseConstruct (ts : List (List Char)) : Option Pseudo :=
  match ts with
  | [] => none
  | o :: inner =>
    if o == [openBrace] && inner.getLast? == some [closeBrace] then
      (commaList bitPosition inner.dropLast).map fun bs => .construct bs ['p']
    else none

/-- A pseudo-command of R49; REMAINDER keeps `r`, FRAME keeps `hi`, `mid` and `lo`. -/
def parsePseudo (t : List Char) (ts : List (List Char)) : Option Pseudo :=
  if t == "HASH".toList then parseHash ts
  else if t == "CONSTRUCT".toList then parseConstruct ts
  else if t == "REMAINDER".toList then
    match commaList operandOf ts with
    | some [a, b] => some (.remainder a b ['r'])
    | _ => none
  else if t == "FRAME".toList then
    match commaList operandOf ts with
    | some [h] => some (.frame h "hi".toList "mid".toList "lo".toList)
    | _ => none
  else none

/-- A line that is one command or a pseudo-command, from its first word on. -/
def parseCommand (t : List Char) (ts : List (List Char)) : Option (List Line) :=
  match commandNamed t, ts with
  | some i, [] => some [.command i]
  | some _, _ :: _ => none
  | none, ts => (parsePseudo t ts).map expand

/-- A line of tokens as the lines it stands for: none for a blank line, several for a
pseudo-command. -/
def parseTokens (ts : List (List Char)) : Option (List Line) :=
  match ts with
  | [] => some []
  | [w, reg, comma, v] =>
    if w == "wr".toList && comma == [','] then (writeLine reg v).map fun l => [l]
    else if w == "rd".toList && comma == "->".toList then
      match registerNamed reg, hostName v with
      | some r, some n => some [.rdTo r n]
      | _, _ => none
    else if w == "expect".toList && comma == "==".toList then
      match registerNamed reg, operandOf v with
      | some r, some o => some [.expect r o]
      | _, _ => none
    else parseCommand w [reg, comma, v]
  | [w, reg] =>
    if w == "rd".toList then (registerNamed reg).map fun r => [.rd r]
    else parseCommand w [reg]
  | w :: rest => parseCommand w rest

/-- One line of text (R48). -/
def parseLine (cs : List Char) : Option (List Line) := parseTokens (tokens [] cs)

/-- A text cut at its line ends; `current` is the line being read, reversed. -/
def textLines : (current : List Char) → List Char → List (List Char)
  | current, [] => [current.reverse]
  | current, c :: cs =>
    if c == '\n' then current.reverse :: textLines [] cs else textLines (c :: current) cs

/-- The lines of every text line, in order; none if one of them is not in the syntax. -/
def parseLines : List (List Char) → Option (List Line)
  | [] => some []
  | l :: ls =>
    match parseLine l, parseLines ls with
    | some a, some b => some (a ++ b)
    | _, _ => none

/-- A host program's text as the lines the host performs (R48, R49). -/
def parseProgram (text : List Char) : Option (List Line) := parseLines (textLines [] text)

end Sys2Proof.Machine
end

