-- ==== Sys2Proof/Tests/Slice0.lean ====
section
/-! SUPPORT. Tests. Expected values come from 95_test_vectors.md or from the rule named; each is one
step on a small state. The witnesses show that the obligations' hypotheses can be met. -/

namespace Sys2Proof.Tests

open Sys2Proof.Machine

/-- The block just after INIT, with the operands given and written by the host. -/
def withOps (a b : Word) : State := writeOpb b (writeOpa a (runInit State.reset))

/-- One field of the state an outcome answers. -/
def field {α : Type} (f : State → α) : Host.Outcome State Fault Refusal → Option α
  | .next s => some (f s)
  | .fault _ => none
  | .refused _ => none

def status (s : State) : Word := busRead .status s

/-! ## Decoding: words written out bit by bit from R41 and R44 -/

theorem test_decode_pbit : decode 0b00000000000000000000000000000001 = .ok .pbit := by decide

theorem test_decode_divrem : decode 0b00000000000000000000000000000100 = .ok .divrem := by decide

theorem test_decode_tread : decode 0b00000000000000000000000000010000 = .ok .tread := by decide

theorem test_decode_cfold : decode 0b00000000000000000000000000010010 = .ok .cfold := by decide

theorem test_decode_lowb : decode 0b00000000000000000000000000100010 = .ok .lowb := by decide

theorem test_decode_others :
    [2, 3, 5, 0x11, 0x20, 0x21].map (decodeTableWord 32) =
      [some .degree, some .pmul, some .prem, some .cclr, some .highb, some .midb] := by decide

/-- 95 L2.6: unassigned opcodes and a non-zero RSV. -/
theorem test_decode_illegal :
    [0x00, 0x06, 0x0F, 0x13, 0x1F, 0x23, 0xFF, 0x102, 0x80000001, 0xFFFFFFFF].map
      (decodeTableWord 32) = List.replicate 10 none := by decide

/-! ## Well-formedness: one ill-formed term for each check -/

theorem test_every_command_wf : Instr.all.all Instr.wf = true := by decide

/-- A name nothing kept (R48), in each line that takes an operand. -/
theorem test_wf_refuses_unbound_name :
    [Line.wrOpa (.name ['h']), .wrOpb (.name ['h']), .wrCmd (.name ['h']),
      .expect .crc (.name ['h'])].map (Line.wf []) = List.replicate 4 false := by decide

/-- `rd` and `expect` name no reserved word (R48). -/
theorem test_wf_refuses_reserved_register :
    [Line.rd .reserved, .rdTo .reserved ['h'], .expect .reserved (.imm 0)].map (Line.wf []) =
      List.replicate 3 false := by decide

/-- A name kept by a later line only, and one kept before. -/
theorem test_wf_program_order :
    programWf [] [.wrOpa (.name ['h']), .rdTo .crc ['h']] = false ∧
    programWf [] [.rdTo .crc ['h'], .wrOpa (.name ['h'])] = true := by decide

/-- R49: a HASH operand over a byte, a CONSTRUCT position of 32, names nothing kept. -/
theorem test_wf_refuses_pseudo :
    [Pseudo.hash [.imm 0x100] ['h'], .hash [.name ['d']] ['h'], .construct [.imm 32] ['p'],
      .construct [.name ['b']] ['p'], .remainder (.name ['t']) (.imm 1) ['r'], .remainder (.imm 1) (.name ['b']) ['r'],
      .frame (.name ['h']) ['x'] ['y'] ['z']].map (Pseudo.wf []) = List.replicate 7 false := by
  decide

/-! ## Commands (95 L2.1 to L2.6) -/

theorem test_pbit : field State.res0 (exec .pbit (withOps 0x00000001 24)) = some 0x01000001 := by
  decide

theorem test_pbit_out_of_range : field status (exec .pbit (withOps 0 32)) = some 0x301 := by decide

theorem test_degree : field State.res0 (exec .degree (withOps 0x01864CFB 0)) = some 24 := by decide

theorem test_degree_zero : field status (exec .degree (withOps 0 0)) = some 0x101 := by decide

theorem test_pmul :
    field State.res0 (exec .pmul (withOps 0x01864CFB 0x01864CFB)) = some 0x10505545 := by decide

theorem test_pmul_truncates :
    field State.res0 (exec .pmul (withOps 0x80000000 0x00000002)) = some 0 := by decide

theorem test_divrem :
    field (fun s => (s.res0, s.res1)) (exec .divrem (withOps 0x12345678 0x00001234)) =
      some (0x00010005, 0x00000C9C) := by decide

theorem test_divrem_zero_by_zero : field status (exec .divrem (withOps 0 0)) = some 0x201 := by
  decide

theorem test_prem :
    field (fun s => (s.res0, s.res1)) (exec .prem (withOps 0xFF000000 0x01864CFB)) =
      some (0x00DD8538, 0) := by decide

theorem test_prem_by_zero : field status (exec .prem (withOps 0xFFFFFFFF 0)) = some 0x201 := by
  decide

theorem test_tread : field State.res0 (exec .tread (withOps 0x000001FF 0)) = some 0x00DD8538 := by
  decide

theorem test_cclr :
    field State.crc (exec .cclr (writeCrc 0x428EB1 (withOps 0 0))) = some 0x000000 := by decide

theorem test_cfold :
    field State.crc (exec .cfold (writeCrc 0x864CFB (withOps 2 0))) = some 0xEC5A45 := by decide

theorem test_cfold_ignores_high_bits :
    field State.crc (exec .cfold (withOps 0x155 0)) = some 0xC94741 := by decide

theorem test_highb : field State.res0 (exec .highb (withOps 0xFFE51ED8 0)) = some 0xE5 := by decide

theorem test_midb : field State.res0 (exec .midb (withOps 0x12345678 0)) = some 0x56 := by decide

theorem test_lowb : field State.res0 (exec .lowb (withOps 0x12345678 0)) = some 0x78 := by decide

/-- 95 L2.4. -/
theorem test_hash_check_value :
    crcHash [0x31, 0x32, 0x33, 0x34, 0x35, 0x36, 0x37, 0x38, 0x39] = 0xCDE703 := by decide

/-- 95 L2.6: decoding comes before the operand check. -/
theorem test_illegal_before_operand_check :
    field status (issueCommand 0x00000102 (withOps 0 0)) = some 0x401 := by decide

/-- 95 P3: in FAULTED a command is ignored and STATUS keeps the first cause. -/
theorem test_faulted_ignores_commands :
    field (fun s => (status s, s.res0))
      (issueCommand 0x00000003 (raiseFault .invalidOperand (withOps 7 3))) =
      some (0x101, 0) := by decide

/-! ## Bus, host lines and reset -/

/-- 95 L2.7: an access at offset 2, and one at offset 0x20. -/
theorem test_bus_error :
    [2, 0x20].map (fun off => accessReg { size := 4, addr := Config.base + off, data := none }) =
      [none, none] := by
  simp [accessReg, admitted, Config.window]

/-- 95 L2.7: a two-byte access, and one below the window. -/
theorem test_bus_error_size :
    accessReg { size := 2, addr := Config.base, data := none } = none := by
  simp [accessReg, admitted]

/-- 95 L2.7: a write to CRC has no effect. -/
theorem test_crc_write_ignored :
    field State.crc (busWrite .crc 0x00FFFFFF (writeCrc 0x428EB1 (withOps 0 0))) =
      some 0x428EB1 := by decide

/-- R93: the step after reset builds the table (95 section 2, row 0xE8). -/
theorem test_init_step :
    field (fun s => (s.phase, tableEntry s.table 0xEF)) (step State.reset) =
      some (.ready, 0x18CBB1) := by decide

/-- R94: a line issued during INIT is held. -/
theorem test_init_holds_lines :
    field (fun s => s.host.program) (step (setProgram [.command .cclr] State.reset)) =
      some [.command .cclr] := by decide

/-- R82, R93: the first command after reset, here an illegal one. -/
theorem test_placed_word_runs :
    field status (step (State.reset.withFetchWord 32 0)) = some 0x401 := by decide

/-- R100: a command that uses a register holding no value goes on and is recorded (log 2). -/
theorem test_unwritten_use :
    field (fun s => s.host.unwrittenUse) (exec .lowb (runInit State.reset)) = some true := by decide

/-- R48: a name nothing kept has no value. -/
theorem test_unbound_name :
    field (fun _ => ()) (performLine (.wrOpa (.name ['h'])) (withOps 0 0)) = none := by decide

/-- R84, R102: a reset clears FAULT and the record that one was cleared stays (log 22). -/
theorem test_reset_keeps_failed :
    field (fun s => (s.fault, s.host.faultCleared))
      (performLine .reset (raiseFault .invalidOperand (withOps 7 3))) = some (false, true) ∧
    field (fun s => (s.fault, s.host.faultCleared)) (performLine .reset (withOps 7 3)) =
      some (false, false) := by decide

/-! ## The text of host programs (R48, R49) -/

theorem test_parse_write :
    parseProgram ['w', 'r', ' ', 'O', 'P', 'A', ',', ' ', '0', 'x', '1', 'F', ' ', ';', 'x'] =
      some [.wrOpa (.imm 31)] := by decide

theorem test_parse_read_to :
    parseProgram ['r', 'd', ' ', 'C', 'R', 'C', ' ', '-', '>', ' ', 'h'] =
      some [.rdTo .crc ['h']] := by decide

theorem test_parse_command :
    parseProgram ['C', 'C', 'L', 'R', '\n', 'H', 'A', 'S', 'H'] =
      some [.command .cclr, .command .cclr, .rdTo .crc ['h']] := by decide

/-- R49: a CONSTRUCT position may be a kept name (log 23). -/
theorem test_parse_construct_name :
    parseConstruct [[openBrace], ['b'], [closeBrace]] =
      some (.construct [.name ['b']] ['p']) := by decide

theorem test_parse_refuses_result_write :
    parseProgram ['w', 'r', ' ', 'R', 'E', 'S', '0', ',', '1'] = none := by decide

end Sys2Proof.Tests
end

