-- ==== Sys2Proof/Tests/Witnesses.lean ====
section
/-! SUPPORT. For every obligation with hypotheses, a concrete case that meets them all, and one for
each clause at a boundary of its range. -/

namespace Sys2Proof.Tests

open Sys2Proof.Machine

/-- A block in FAULTED, as 95 P3 leaves it. -/
def faultedBlock : State := raiseFault .invalidOperand (withOps 7 3)

/-- The block in READY with lines to perform. -/
def withLines (ls : List Line) : State := setProgram ls (withOps 7 3)

theorem withOps_blockInv (a b : Word) : BlockInv (withOps a b) :=
  ⟨fun _ => tableEntry_builtTable, by simp [FaultMatchesPhase, withOps, State.reset],
    by simp [CauseLegal, withOps, State.reset]⟩

theorem withLines_blockInv (ls : List Line) : BlockInv (withLines ls) :=
  have h := withOps_blockInv 7 3
  ⟨h.table, h.faultPhase, h.causeLegal⟩

/-! ## Command words and running a command -/

/-- The last word before a gap's end, a gap's first, and a word with one RSV bit. -/
theorem test_witness_EveryOtherWordIsIllegal :
    (withOps 0 0).phase = .ready ∧ (∀ i, (0x0F : Word) ≠ encode i) ∧
    (∀ i, (0x23 : Word) ≠ encode i) ∧ (∀ i, (0x101 : Word) ≠ encode i) :=
  ⟨by decide, fun i => by cases i <;> decide, fun i => by cases i <;> decide,
    fun i => by cases i <;> decide⟩

theorem test_witness_StepRunsTheDecodedCommand :
    (withLines [.wrCmd (.imm 3)]).phase ≠ .init ∧
    (withLines [.wrCmd (.imm 3)]).host.program = .wrCmd (.imm 3) :: [] ∧
    decode 3 = .ok .pmul ∧ (withLines [.command .lowb]).host.program = .command .lowb :: [] := by
  decide

theorem test_witness_PlacedCommandRunsFirst : decode 0x22 = .ok .lowb := by decide

/-! ## Polynomial functions -/

theorem test_witness_DegreeIsHighestSetBit :
    deg 0 = none ∧ deg 1 = some 0 ∧ deg 0x80000000 = some 31 := by decide

theorem test_witness_PmulClosedForm :
    (pmul 0xFFFFFFFF 0xFFFFFFFF).getLsbD 0 = true ∧ (pmul 0xFFFFFFFF 0xFFFFFFFF).getLsbD 31 = false := by
  decide

theorem test_witness_PmulLaws : (31 : Nat) ≤ 31 ∧ pmul 1 (1#32 <<< 31) = 0x80000000 := by decide

theorem test_witness_DivisionIdentity :
    (0x80000000 : Word) ≠ 0 ∧ pdivrem 0xFFFFFFFF 0x80000000 = some (1, 0x7FFFFFFF) := by decide

/-- 95 L2.3: `x^2+x+1 = x(x+1) + 1`. -/
theorem test_witness_DivisionPairUnique :
    (3 : Word) ≠ 0 ∧ ProductFits 2 3 ∧ pmul 2 3 ^^^ 1 = 7 ∧ IsRemainderFor 3 1 := by
  have h2 : deg 2 = some 1 := by decide
  have h3 : deg 3 = some 1 := by decide
  refine ⟨by decide, fun dx dy hx hy => ?_, by decide, .inr ⟨0, 1, by decide, h3, by decide⟩⟩
  rw [h2] at hx
  rw [h3] at hy
  cases hx
  cases hy
  decide

/-- The pair by which R60's sentence fails as it stands: `x * x^31` is a multiple of `x^32`. -/
theorem test_witness_DivisionPairUniqueWithoutFit :
    (0x80000000 : Word) ≠ 0 ∧ pmul 2 0x80000000 ^^^ 0 = 0 ∧ IsRemainderFor 0x80000000 0 ∧
    pdivrem 0 0x80000000 = some (0, 0) := ⟨by decide, by decide, .inl rfl, by decide⟩

theorem test_witness_DivisionFailsOnlyByZero :
    pdivrem 0 0 = none ∧ pdivrem 7 3 = some (2, 1) := by decide

theorem test_witness_HashIsPolynomialRemainder :
    ∃ m h g, IsMessagePoly [0x01, 0x80] m ∧ Represents (crcHash [0x01, 0x80]) h ∧
      Represents Config.gen g :=
  have ⟨m, hm⟩ := exists_messagePoly [0x01, 0x80]
  have ⟨h, hh⟩ := exists_represents (crcHash [0x01, 0x80])
  have ⟨g, hg⟩ := exists_represents Config.gen
  ⟨m, h, g, hm, hh, hg⟩

/-! ## Commands -/

/-- PBIT at 31 and at 32. -/
theorem test_witness_PbitSetsOneCoefficient :
    (withOps 0 31).phase = .ready ∧ (withOps 0 31).opb.toNat < 32 ∧
    (withOps 0 32).phase = .ready ∧ 32 ≤ (withOps 0 32).opb.toNat := by decide

/-- DEGREE of 1 and of 0. -/
theorem test_witness_DegreeGivesTheHighestBit :
    (withOps 1 0).phase = .ready ∧ (withOps 1 0).opa ≠ 0 ∧ (withOps 0 0).opa = 0 := by decide

/-- DIVREM and PREM by 1 and by 0; the same state serves the two identities. -/
theorem test_witness_DivremDivides_PremGivesTheRemainder_DivremSatisfiesTheDivisionIdentity :
    (withOps 7 1).phase = .ready ∧ (withOps 7 1).opb ≠ 0 ∧ (withOps 0 0).phase = .ready ∧
    (withOps 0 0).opb = 0 := by decide

/-- The hypothesis READY alone, of the remaining commands. -/
theorem test_witness_CommandsInReady : (withOps 0xFFFFFFFF 0xFFFFFFFF).phase = .ready := by decide

theorem test_witness_TreadAgreesWithPrem :
    BlockInv (withOps 0xFF 0) ∧ (withOps 0xFF 0).phase = .ready ∧
    (withOps 0xFF000000 Config.gen).phase = .ready ∧
    (withOps 0xFF000000 Config.gen).opa =
      ((withOps 0xFF 0).opa.extractLsb' 0 8).setWidth 32 <<< 24 ∧
    (withOps 0xFF000000 Config.gen).opb = Config.gen :=
  ⟨withOps_blockInv _ _, by decide, by decide, by decide, by decide⟩

/-- Each operand check failing, and one command whose check passes. -/
theorem test_witness_CommandsFaultExactlyOnTheirCheck :
    field State.phase (exec .degree (withOps 0 0)) = some .faulted ∧
    field State.phase (exec .divrem (withOps 7 0)) = some .faulted ∧
    field State.phase (exec .prem (withOps 7 0)) = some .faulted ∧
    field State.phase (exec .pbit (withOps 7 32)) = some .faulted ∧
    field State.phase (exec .pbit (withOps 7 31)) = some .ready := by decide

theorem test_witness_FaultEntryWritesOnlyStatus :
    (withOps 0 0).phase = .ready ∧
    field State.phase (busWrite .cmd 0x00000000 (withOps 0 0)) = some .faulted ∧
    field State.phase (busWrite .cmd 0x00000002 (withOps 0 0)) = some .faulted := by decide

theorem test_witness_CommandsLeaveOperandsAndTable :
    field State.opa (busWrite .cmd 0x00000003 (withOps 9 3)) = some 9 := by decide

/-- A command that changes CRC, one that changes RES1, one that changes RES0. -/
theorem test_witness_EachResultRegisterHasItsCommands :
    field State.crc (exec .cfold (withOps 1 0)) = some 0x864CFB ∧ (withOps 1 0).crc = 0 ∧
    field State.res1 (exec .divrem (withOps 7 3)) = some 1 ∧ (withOps 7 3).res1 = 0 ∧
    field State.res0 (exec .pmul (withOps 7 3)) = some 9 ∧ (withOps 7 3).res0 = 0 := by decide

/-! ## The register window -/

/-- Offsets 0 and 0x1C are admitted; 0x20, a misaligned one and a two-byte access are not. -/
theorem test_witness_OnlyAdmittedAccessesArePerformed :
    admitted 4 0x00 = true ∧ admitted 4 0x1C = true ∧ admitted 4 0x20 = false ∧
    admitted 4 0x02 = false ∧ admitted 2 0x00 = false := by decide

/-- Each clause of the write to CMD, and INIT. -/
theorem test_witness_BusWriteDoesWhatTheOffsetSays_FaultedBlockIgnoresCommandsOnly :
    (withOps 7 3).phase = .ready ∧ decode 3 = .ok .pmul ∧
    decode 0 = .error .unassignedOpcode ∧ faultedBlock.phase = .faulted ∧
    State.reset.phase = .init := by decide

/-! ## Phases, reset and initialisation -/

theorem test_witness_InitBuildsTheTableAndHoldsTheHost :
    (setProgram [.command .cclr] State.reset).phase = .init := by decide

/-- A step that is no reset, in READY and in FAULTED; a reset; and INIT. -/
theorem test_witness_PhasesChangeOnlyAsStated_TableIsImmutableAfterInit :
    (withLines [.command .degree]).phase = .ready ∧ NoResetNext (withLines [.command .degree]) ∧
    field State.phase (step (withLines [.command .degree])) = some .ready ∧
    ¬ NoResetNext (withLines [.reset]) ∧
    field State.phase (step (withLines [.reset])) = some .init ∧
    field State.phase (step State.reset) = some .ready :=
  ⟨by decide, by simp [NoResetNext, withLines], by decide, by simp [NoResetNext, withLines],
    by decide, by decide⟩

theorem test_witness_FaultedBlockKeepsItsResults :
    (setProgram [.command .pmul] faultedBlock).phase = .faulted ∧
    NoResetNext (setProgram [.command .pmul] faultedBlock) ∧
    field State.res0 (step (setProgram [.command .pmul] faultedBlock)) = some 0 :=
  ⟨by decide, by simp [NoResetNext], by decide⟩

theorem test_witness_ResetRebuildsTheSameTable :
    BlockInv (withOps 7 3) ∧ (withOps 7 3).phase ≠ .init ∧
    field State.phase (step (applyReset (withOps 7 3))) = some .ready :=
  ⟨withOps_blockInv _ _, by decide, by decide⟩

theorem test_witness_EveryStepKeepsTheBlockInvariant :
    BlockInv (withLines [.wrCmd (.imm 0)]) ∧
    field State.phase (step (withLines [.wrCmd (.imm 0)])) = some .faulted :=
  ⟨withLines_blockInv _, by decide⟩

/-! ## The host -/

theorem test_witness_LinesArePerformedInOrder :
    (withLines [.rd .opa, .command .pmul]).phase ≠ .init ∧
    (withLines [.rd .opa, .command .pmul]).host.program = .rd .opa :: [.command .pmul] ∧
    field (fun s => s.host.reads) (step (withLines [.rd .opa, .command .pmul])) = some [7] := by
  decide

/-- Failed by FAULT = 1 and by a cleared fault; a faulted program that reads on, and one with a
reset. -/
theorem test_witness_FaultedProgramNeverEndsWell :
    Failed (setProgram [.rd .status] faultedBlock) ∧ Failed (applyReset faultedBlock) ∧
    field (fun s => s.host.reads) (core.run 1 (setProgram [.rd .status] faultedBlock)) =
      some [0x101] ∧
    field (fun s => (s.fault, s.host.program)) (core.run 1 (setProgram [.reset] faultedBlock)) =
      some (false, []) := ⟨.inl rfl, .inr rfl, by decide, by decide⟩

/-- A block whose next lines are the expansion, with 31 kept under the name `d`. -/
def withPseudo (p : Pseudo) : State := keepName ['d'] 31 (withLines (expand p))

theorem withPseudo_blockInv (p : Pseudo) : BlockInv (withPseudo p) :=
  have h := withLines_blockInv (expand p)
  ⟨h.table, h.faultPhase, h.causeLegal⟩

/-- HASH of an immediate and of a kept name, and of no byte. -/
theorem test_witness_HashPseudoCommandComputesTheHash :
    BlockInv (withPseudo (.hash [.imm 0xFF, .name ['d']] ['h'])) ∧
    (withPseudo (.hash [.imm 0xFF, .name ['d']] ['h'])).phase = .ready ∧
    [Operand.imm 0xFF, .name ['d']].map
        (operandValue (withPseudo (.hash [.imm 0xFF, .name ['d']] ['h'])).host.names) =
      [(0xFF : Byte), 31].map (fun b => some (b.setWidth 32)) ∧
    (withPseudo (.hash [.imm 0xFF, .name ['d']] ['h'])).host.program =
      expand (.hash [.imm 0xFF, .name ['d']] ['h']) ++ [] ∧
    (withPseudo (.hash [] ['h'])).host.program = expand (.hash [] ['h']) ++ [] :=
  ⟨withPseudo_blockInv _, by decide, by decide, by decide, by decide⟩

/-- CONSTRUCT of position 0 as an immediate and 31 under a kept name. -/
theorem test_witness_ConstructPseudoCommandSetsExactlyItsBits :
    [Operand.imm 0, .name ['d']].map
        (operandValue (withPseudo (.construct [.imm 0, .name ['d']] ['p'])).host.names) =
      [(0 : Word), 31].map some ∧
    Operand.name ['p'] ∉ [Operand.imm 0, .name ['d']] ∧
    ([(0 : Word), 31].all fun b => b.toNat < 32) = true ∧
    (withPseudo (.construct [.imm 0, .name ['d']] ['p'])).phase = .ready ∧
    (withPseudo (.construct [.imm 0, .name ['d']] ['p'])).host.program =
      expand (.construct [.imm 0, .name ['d']] ['p']) ++ [] := by decide

/-- FRAME of a kept name. -/
theorem test_witness_FramePseudoCommandGivesTheCheckBytes :
    ['h', 'i'] ≠ ['m', 'i', 'd'] ∧ ['h', 'i'] ≠ ['l', 'o'] ∧ ['m', 'i', 'd'] ≠ ['l', 'o'] ∧
    (withPseudo (.frame (.name ['d']) ['h', 'i'] ['m', 'i', 'd'] ['l', 'o'])).phase = .ready ∧
    operandValue (withPseudo (.frame (.name ['d']) ['h', 'i'] ['m', 'i', 'd'] ['l', 'o'])).host.names
        (.name ['d']) = some ((31 : Crc).setWidth 32) ∧
    (withPseudo (.frame (.name ['d']) ['h', 'i'] ['m', 'i', 'd'] ['l', 'o'])).host.program =
      expand (.frame (.name ['d']) ['h', 'i'] ['m', 'i', 'd'] ['l', 'o']) ++ [] := by decide

/-- An operand of each form; OPA holds 7. -/
theorem test_witness_ExpectRecordsWhetherTheValueHeld :
    operandValue (keepName ['d'] 7 (withLines [])).host.names (.imm 8) = some 8 ∧
    operandValue (keepName ['d'] 7 (withLines [])).host.names (.name ['d']) = some 7 ∧
    busRead .opa (keepName ['d'] 7 (withLines [])) = 7 := by decide

theorem test_witness_UnwrittenUseIsRecordedForGood :
    (noteUse false (withLines [.command .pmul])).host.unwrittenUse = true ∧
    field State.res0 (step (noteUse false (withLines [.command .pmul]))) = some 9 ∧
    holdsValue .res1 (withOps 7 3) = false := by decide

end Sys2Proof.Tests
end

/-! # Proofs of the state family (10_state.md) -/

namespace Sys2Proof.Machine

variable {s t : State} {i : Instr} {w : Word}

/-! ## What a write to CMD can do -/

/-- A write to CMD that answers a next state left the state alone, or the core was in READY and the
write took IllegalCommand or had one of the effects of a command. -/
theorem issueCommand_next_cases (h : issueCommand w s = .next t) :
    t = s ∨ (s.phase = .ready ∧
      (t = raiseFault .illegalCommand s ∨ ∃ i, CommandEffect i s t)) := by
  obtain ⟨-, hw⟩ | ⟨hp, -, hw⟩ | ⟨i, hp, -, hw⟩ := issueCommand_cases w s
  · cases hw.symm.trans h; exact .inl rfl
  · cases hw.symm.trans h; exact .inr ⟨hp, .inl rfl⟩
  · obtain hs | ⟨-, he⟩ := exec_next_cases (hw.symm.trans h)
    · exact .inl hs
    · exact .inr ⟨hp, .inr ⟨i, he⟩⟩

/-- The registers no command writes: the operands, which the host alone writes (R10, R11), and TABLE,
which initialisation alone writes (R17). -/
structure SameOperandsAndTable (s t : State) : Prop where
  opa : t.opa = s.opa
  opb : t.opb = s.opb
  table : t.table = s.table
  writtenOpa : t.written.opa = s.written.opa
  writtenOpb : t.written.opb = s.written.opb

theorem SameOperandsAndTable.refl (s : State) : SameOperandsAndTable s s := ⟨rfl, rfl, rfl, rfl, rfl⟩

theorem sameOperandsAndTable_raiseFault (c : FaultCause) (s : State) :
    SameOperandsAndTable s (raiseFault c s) := ⟨rfl, rfl, rfl, rfl, rfl⟩

theorem CommandEffect.sameOperandsAndTable (h : CommandEffect i s t) : SameOperandsAndTable s t := by
  cases h with
  | fault c used huse => obtain rfl | rfl := huse <;> constructor <;> rfl
  | res0 v used huse => obtain rfl | rfl := huse <;> constructor <;> rfl
  | both q r => constructor <;> rfl
  | crc v used huse => obtain rfl | rfl := huse <;> constructor <;> rfl

theorem issueCommand_sameOperandsAndTable (h : issueCommand w s = .next t) :
    SameOperandsAndTable s t := by
  obtain rfl | ⟨-, rfl | ⟨i, he⟩⟩ := issueCommand_next_cases h
  · exact .refl t
  · exact sameOperandsAndTable_raiseFault _ s
  · exact he.sameOperandsAndTable

/-! ## STATUS, TABLE and the phase along a step -/

/-- STATUS, TABLE and the phase are as before. -/
structure SameControl (s t : State) : Prop where
  fault : t.fault = s.fault
  cause : t.cause = s.cause
  table : t.table = s.table
  phase : t.phase = s.phase

/-- The core took a fault, which it does in READY only (R82, R84), and TABLE is as before. -/
structure EntersFault (s t : State) : Prop where
  ready : s.phase = .ready
  fault : t.fault = true
  cause : ∃ c, t.cause = causeCode c
  table : t.table = s.table
  phase : t.phase = .faulted

theorem SameControl.refl (s : State) : SameControl s s := ⟨rfl, rfl, rfl, rfl⟩

theorem CommandEffect.control (h : CommandEffect i s t) (hp : s.phase = .ready) :
    SameControl s t ∨ EntersFault s t := by
  cases h with
  | fault c used huse =>
    have htable : used.table = s.table := by obtain rfl | rfl := huse <;> rfl
    exact .inr ⟨hp, rfl, ⟨c, rfl⟩, htable, rfl⟩
  | res0 v used huse => obtain rfl | rfl := huse <;> exact .inl ⟨rfl, rfl, rfl, rfl⟩
  | both q r => exact .inl ⟨rfl, rfl, rfl, rfl⟩
  | crc v used huse => obtain rfl | rfl := huse <;> exact .inl ⟨rfl, rfl, rfl, rfl⟩

theorem issueCommand_control (h : issueCommand w s = .next t) :
    SameControl s t ∨ EntersFault s t := by
  obtain rfl | ⟨hp, rfl | ⟨i, he⟩⟩ := issueCommand_next_cases h
  · exact .inl (.refl t)
  · exact .inr ⟨hp, rfl, ⟨.illegalCommand, rfl⟩, rfl, rfl⟩
  · exact he.control hp

theorem LineEffect.control (h : LineEffect s t) : SameControl s t ∨ EntersFault s t := by
  cases h with
  | opa v => exact .inl ⟨rfl, rfl, rfl, rfl⟩
  | opb v => exact .inl ⟨rfl, rfl, rfl, rfl⟩
  | cmd w t h => exact issueCommand_control h
  | host h => exact .inl ⟨rfl, rfl, rfl, rfl⟩

/-- What a step does to STATUS, TABLE and the phase: initialisation, a reset, nothing, or fault
entry. -/
inductive StepControl (s t : State) : Prop where
  | init (hp : s.phase = .init) (ht : t = runInit s)
  | reset (hp : s.phase ≠ .init) (hnext : ¬ NoResetNext s) (rest : List Line)
      (ht : t = applyReset (setProgram rest s))
  | same (hp : s.phase ≠ .init) (hnext : NoResetNext s) (hc : SameControl s t)
  | fault (hnext : NoResetNext s) (hf : EntersFault s t)

theorem step_control (h : step s = .next t) : StepControl s t := by
  obtain ⟨hp, ht⟩ | ⟨hp, hprog, rfl⟩ | ⟨l, rest, hp, hprog, hl⟩ := step_cases h
  · exact .init hp ht
  · exact .same hp (by simp [NoResetNext, hprog]) (.refl t)
  · obtain ⟨hreset, ht⟩ | ⟨hreset, he⟩ := performLine_cases hl
    · exact .reset hp (by simp [NoResetNext, hprog, hreset]) rest ht
    · have hnext : NoResetNext s := by simpa [NoResetNext, hprog] using hreset
      obtain hc | hf := he.control
      · exact .same hp hnext ⟨hc.fault, hc.cause, hc.table, hc.phase⟩
      · exact .fault hnext ⟨hf.ready, hf.fault, hf.cause, hf.table, hf.phase⟩

/-! ## The block's invariant -/

/-- The codes of R77 are 1 to 4. -/
theorem causeCode_range (c : FaultCause) : 1 ≤ (causeCode c).toNat ∧ (causeCode c).toNat ≤ 4 := by
  cases c <;> decide

/-- Initialisation builds the table (R93); STATUS was clear, since INIT is not FAULTED. -/
theorem blockInv_runInit (hs : BlockInv s) (hp : s.phase = .init) : BlockInv (runInit s) := by
  have hfault : s.fault = false := by simpa [FaultMatchesPhase, hp] using hs.faultPhase
  exact ⟨fun _ => tableEntry_builtTable, by simp [FaultMatchesPhase, hfault], hs.causeLegal⟩

/-- In INIT the invariant asks nothing of the table, and reset clears STATUS (R92). -/
theorem blockInv_applyReset (s : State) : BlockInv (applyReset s) :=
  ⟨fun h => absurd rfl h, by simp [FaultMatchesPhase, State.reset],
    by simp [CauseLegal, State.reset]⟩

theorem SameControl.blockInv (h : SameControl s t) (hs : BlockInv s) : BlockInv t := by
  obtain ⟨hfault, hcause, htable, hphase⟩ := h
  obtain ⟨htb, hfp, hcl⟩ := hs
  exact ⟨by simpa only [TableBuilt, htable, hphase] using htb,
    by simpa only [FaultMatchesPhase, hfault, hphase] using hfp,
    by simpa only [CauseLegal, hfault, hcause] using hcl⟩

/-- Fault entry sets FAULT, a code of R77 and FAULTED together (R82), and READY had the table
built. -/
theorem EntersFault.blockInv (h : EntersFault s t) (hs : BlockInv s) : BlockInv t := by
  obtain ⟨hready, hfault, ⟨c, hcause⟩, htable, hphase⟩ := h
  have hbuilt : ∀ i : Byte, tableEntry s.table i = genTable i := hs.table (by simp [hready])
  exact ⟨fun _ => htable ▸ hbuilt, by simp [FaultMatchesPhase, hfault, hphase],
    by simpa [CauseLegal, hfault, hcause] using causeCode_range c⟩

end Sys2Proof.Machine

section
open Sys2Proof Sys2Proof.Machine

/-- Settles O52, by what a step can do to STATUS, TABLE and the phase. -/
theorem everyStepKeepsTheBlockInvariant : Obligations.EveryStepKeepsTheBlockInvariant := by
  intro s t hs h
  cases step_control h with
  | init hp ht => exact ht ▸ blockInv_runInit hs hp
  | reset _ _ rest ht => exact ht ▸ blockInv_applyReset _
  | same _ _ hc => exact hc.blockInv hs
  | fault _ hf => exact hf.blockInv hs

/-- Settles O39: a write to CMD has no effect that reaches the operands or TABLE. -/
theorem commandsLeaveOperandsAndTable : Obligations.CommandsLeaveOperandsAndTable := by
  intro w s t h
  obtain ⟨hopa, hopb, htable, hwa, hwb⟩ := issueCommand_sameOperandsAndTable h
  exact ⟨hopa, hopb, htable, hwa, hwb⟩

/-- Settles O40, by the four effects a command can have. -/
theorem eachResultRegisterHasItsCommands : Obligations.EachResultRegisterHasItsCommands := by
  intro i s t h
  obtain rfl | ⟨-, he⟩ := exec_next_cases h
  · exact ⟨absurd rfl, absurd rfl, absurd rfl⟩
  cases he with
  | fault c used huse => obtain rfl | rfl := huse <;> exact ⟨absurd rfl, absurd rfl, absurd rfl⟩
  | res0 v used huse hi =>
    obtain rfl | rfl := huse <;> exact ⟨absurd rfl, absurd rfl, fun _ => hi⟩
  | both q r hi => exact ⟨absurd rfl, fun _ => hi, fun _ => by simp [hi]⟩
  | crc v used huse hi => obtain rfl | rfl := huse <;> exact ⟨fun _ => hi, absurd rfl, absurd rfl⟩

/-- Settles O47: of the steps only initialisation and reset write TABLE. -/
theorem tableIsImmutableAfterInit : Obligations.TableIsImmutableAfterInit := by
  intro s t hp hnext h
  cases step_control h with
  | init hinit => exact absurd hinit hp
  | reset _ hreset => exact absurd hnext hreset
  | same _ _ hc => exact hc.table
  | fault _ hf => exact hf.table

/-- Settles O49, by what a step can do to the phase. -/
theorem phasesChangeOnlyAsStated : Obligations.PhasesChangeOnlyAsStated := by
  intro s t h
  cases step_control h with
  | init hp ht => simp [hp, ht]
  | reset hp hnext rest ht => simp [hp, hnext, ht, State.reset]
  | same hp hnext hc =>
    refine ⟨fun h => absurd h hp, fun h _ => .inl ?_, fun h _ => ?_, fun _ h => absurd hnext h⟩
    · rw [hc.phase, h]
    · rw [hc.phase, h]
  | fault hnext hf => simp [hf.ready, hf.phase, hnext]

/-- Settles O44: bit 0 comes from FAULT's half of the word, bits 11:8 from CAUSE's. -/
theorem statusWordLayout : Obligations.StatusWordLayout := by
  intro fault cause k
  have hfault : ((BitVec.ofBool fault).setWidth 32).getLsbD k = (k == 0 && fault) := by
    rcases k with _ | k <;> simp
  have hcause : (cause.setWidth 32 <<< 8).getLsbD k =
      (decide (8 ≤ k ∧ k < 12) && cause.getLsbD (k - 8)) := by
    simp only [BitVec.getLsbD_shiftLeft, BitVec.getLsbD_setWidth]
    by_cases h8 : 8 ≤ k <;> by_cases h12 : k < 12
    · simp [h8, h12, show k < 32 by omega, show k - 8 < 32 by omega]
    · simp [h8, h12, BitVec.getLsbD_of_ge cause (k - 8) (by omega)]
    · simp [h8]
    · simp [h8]
  rw [statusWord, BitVec.getLsbD_or, hfault, hcause]

end

/-! # Proofs of the memory family (20_memory.md) -/

namespace Sys2Proof.Machine

variable {s t : State} {i : Instr} {w : Word} {r : BusReg} {a : Access}

/-! ## Which accesses are performed -/

/-- There is a register at every aligned offset inside the window (R25). -/
theorem regAt_isSome : ∀ off < Config.window, off % 4 = 0 → (regAt off).isSome := by decide

/-- An access reaches a register exactly when it is admitted and not below the window (R24, R27). -/
theorem accessReg_isSome_iff : (accessReg a).isSome ↔
    a.size = 4 ∧ Config.base ≤ a.addr ∧ (a.addr - Config.base) % 4 = 0 ∧
      a.addr - Config.base < Config.window := by
  have hadmitted : (Config.base ≤ a.addr ∧ admitted a.size (a.addr - Config.base)) ↔
      a.size = 4 ∧ Config.base ≤ a.addr ∧ (a.addr - Config.base) % 4 = 0 ∧
        a.addr - Config.base < Config.window := by
    simp only [admitted, Bool.and_eq_true, beq_iff_eq, decide_eq_true_eq]
    tauto
  rw [accessReg, ← hadmitted]
  split
  case isTrue h =>
    obtain ⟨-, -, halign, hlt⟩ := hadmitted.1 h
    simp [h, regAt_isSome _ hlt halign]
  case isFalse h => simp [h]

theorem performAccess_of_none (h : accessReg a = none) (s : State) :
    performAccess a s = .fault (.busError a) := by
  simp [performAccess, h]

/-- A read at a register's offset delivers what the register returns (R28). -/
theorem performAccess_read (r : BusReg) (s : State) :
    performAccess { size := 4, addr := Config.base + regOffset r, data := none } s =
      .next (deliverRead r s) := by
  simp only [performAccess, accessReg_regOffset]

/-- A write at a register's offset is `BusWrite` to the register (R29). -/
theorem performAccess_write (r : BusReg) (v : Word) (s : State) :
    performAccess { size := 4, addr := Config.base + regOffset r, data := some v } s =
      busWrite r v s := by
  simp only [performAccess, accessReg_regOffset]

/-! ## Writes to CMD -/

/-- The decoder reads every command's word back (R42, R44). -/
theorem decode_encode (i : Instr) : decode (encode i) = .ok i := by
  cases i <;> decide

/-- Outside READY a write to CMD has no effect (R29, R84). -/
theorem issueCommand_of_not_ready (h : s.phase ≠ .ready) (w : Word) :
    issueCommand w s = .next s :=
  whenReady_of_not_ready h

/-- Writing a word that decodes is executing the command, in every phase: outside READY neither has
an effect (R29, R84). -/
theorem issueCommand_of_decode (h : decode w = .ok i) (s : State) :
    issueCommand w s = exec i s := by
  by_cases hp : s.phase = .ready
  · simp only [issueCommand, whenReady_of_ready hp, h]
  · rw [issueCommand_of_not_ready hp, exec_of_not_ready i hp]

/-- In READY a word that is no command raises IllegalCommand (R45, R81). -/
theorem issueCommand_of_decode_error {e : DecodeError} (hp : s.phase = .ready)
    (h : decode w = .error e) : issueCommand w s = .next (raiseFault .illegalCommand s) := by
  simp only [issueCommand, whenReady_of_ready hp, h]

/-- The fault of a word that is no command uses no register. -/
theorem raiseFault_illegalCommand (s : State) :
    raiseFault .illegalCommand s = faultedState 4 true s := by
  simp [raiseFault, faultedState, hostAfterUse, causeCode]

/-! ## No access to a register stops the machine -/

/-- A command answers a next state in every phase. -/
theorem exec_answers (i : Instr) (s : State) : ∃ t, exec i s = .next t := by
  by_cases hp : s.phase = .ready
  · obtain ⟨t, ht, -⟩ := exec_effect i hp
    exact ⟨t, ht⟩
  · exact ⟨s, exec_of_not_ready i hp⟩

theorem issueCommand_answers (w : Word) (s : State) : ∃ t, issueCommand w s = .next t := by
  obtain ⟨-, hw⟩ | ⟨-, -, hw⟩ | ⟨i, -, -, hw⟩ := issueCommand_cases w s
  · exact ⟨_, hw⟩
  · exact ⟨_, hw⟩
  · rw [hw]; exact exec_answers i s

theorem busWrite_answers (r : BusReg) (w : Word) (s : State) : ∃ t, busWrite r w s = .next t := by
  cases r with
  | cmd => exact issueCommand_answers w s
  | opa | opb | res0 | res1 | crc | status | reserved => exact ⟨_, rfl⟩

/-- An access that reaches a register answers a next state, read or write. -/
theorem performAccess_answers (h : accessReg a = some r) (s : State) :
    ∃ t, performAccess a s = .next t := by
  simp only [performAccess, h]
  cases a.data with
  | none => exact ⟨_, rfl⟩
  | some v => exact busWrite_answers r v s

/-! ## The host's lines and its reads -/

/-- The lines still to perform are as before, and the values read before are a beginning of those
read since (R36, R102). -/
structure KeepsLinesAndReads (s t : State) : Prop where
  program : t.host.program = s.host.program
  reads : s.host.reads <+: t.host.reads

theorem KeepsLinesAndReads.refl (s : State) : KeepsLinesAndReads s s := ⟨rfl, List.prefix_rfl⟩

theorem CommandEffect.keepsLinesAndReads (h : CommandEffect i s t) : KeepsLinesAndReads s t := by
  cases h with
  | fault c used huse => obtain rfl | rfl := huse <;> exact ⟨rfl, List.prefix_rfl⟩
  | res0 v used huse => obtain rfl | rfl := huse <;> exact ⟨rfl, List.prefix_rfl⟩
  | both q r => exact ⟨rfl, List.prefix_rfl⟩
  | crc v used huse => obtain rfl | rfl := huse <;> exact ⟨rfl, List.prefix_rfl⟩

theorem issueCommand_keepsLinesAndReads (h : issueCommand w s = .next t) :
    KeepsLinesAndReads s t := by
  obtain rfl | ⟨-, rfl | ⟨i, he⟩⟩ := issueCommand_next_cases h
  · exact .refl t
  · exact ⟨rfl, List.prefix_rfl⟩
  · exact he.keepsLinesAndReads

theorem LineEffect.keepsLinesAndReads (h : LineEffect s t) : KeepsLinesAndReads s t := by
  cases h with
  | opa v => exact ⟨rfl, List.prefix_rfl⟩
  | opb v => exact ⟨rfl, List.prefix_rfl⟩
  | cmd w t h => exact issueCommand_keepsLinesAndReads h
  | host h hprogram hreads => exact ⟨hprogram, hreads⟩

/-- No line, a reset included, changes the lines after it or takes back a value read. -/
theorem performLine_keepsLinesAndReads {l : Line} (h : performLine l s = .next t) :
    KeepsLinesAndReads s t := by
  obtain ⟨-, rfl⟩ | ⟨-, he⟩ := performLine_cases h
  · exact ⟨rfl, List.prefix_rfl⟩
  · exact he.keepsLinesAndReads

end Sys2Proof.Machine

section
open Sys2Proof Sys2Proof.Machine

/-- Settles O41: an access answers exactly when it reaches a register of the window. -/
theorem onlyAdmittedAccessesArePerformed : Obligations.OnlyAdmittedAccessesArePerformed := by
  intro a s
  refine ⟨fun h => ?_, fun h => ?_⟩
  · obtain ⟨r, hr⟩ := Option.isSome_iff_exists.1 (accessReg_isSome_iff.2 h)
    exact performAccess_answers hr s
  · exact performAccess_of_none (Option.not_isSome_iff_eq_none.1 (mt accessReg_isSome_iff.1 h)) s

/-- Settles O54: the line is taken off before it is performed, and performing it keeps the rest. -/
theorem linesArePerformedInOrder : Obligations.LinesArePerformedInOrder := by
  intro s t l rest hp hprog h
  rw [step_of_line hp hprog] at h
  obtain ⟨hprogram, hreads⟩ := performLine_keepsLinesAndReads h
  exact ⟨hprogram, hreads⟩

/-- Settles O5: either form of the line writes to CMD a word that decodes to the command. -/
theorem stepRunsTheDecodedCommand : Obligations.StepRunsTheDecodedCommand := by
  refine ⟨fun s w i rest hp hprog hw => ?_, fun s i rest hp hprog => ?_⟩
  · rw [step_of_line hp hprog]
    exact issueCommand_of_decode hw _
  · rw [step_of_line hp hprog]
    exact issueCommand_of_decode (decode_encode i) _

/-- Settles O42: each row of R25 is the offset of a register and what a read of it returns. -/
theorem busReadReturnsTheRegister : Obligations.BusReadReturnsTheRegister := by
  intro s row hrow
  have hreg : ∃ r, row = (regOffset r, busRead r s) := by
    simp only [List.mem_cons, List.not_mem_nil, or_false] at hrow
    obtain h | h | h | h | h | h | h | h := hrow
    · exact ⟨.opa, h⟩
    · exact ⟨.opb, h⟩
    · exact ⟨.cmd, h⟩
    · exact ⟨.res0, h⟩
    · exact ⟨.res1, h⟩
    · exact ⟨.crc, h⟩
    · exact ⟨.status, h⟩
    · exact ⟨.reserved, h⟩
  obtain ⟨r, rfl⟩ := hreg
  exact ⟨_, performAccess_read r s, rfl, rfl⟩

/-- Settles O43: the write at each offset is `BusWrite` to the register there; in INIT the step is
initialisation, which leaves the host alone. -/
theorem busWriteDoesWhatTheOffsetSays : Obligations.BusWriteDoesWhatTheOffsetSays := by
  refine ⟨fun s v => ⟨performAccess_write .opa v s, performAccess_write .opb v s,
    fun _ i hi => ?_, fun hp e he => ?_, fun hp => ?_, fun off hoff => ?_⟩,
    fun s hp => ⟨_, step_of_init hp, rfl⟩⟩
  · exact (performAccess_write .cmd v s).trans (issueCommand_of_decode hi s)
  · rw [← raiseFault_illegalCommand]
    exact (performAccess_write .cmd v s).trans (issueCommand_of_decode_error hp he)
  · exact (performAccess_write .cmd v s).trans (issueCommand_of_not_ready (by simp [hp]) v)
  · simp only [List.mem_cons, List.not_mem_nil, or_false] at hoff
    obtain rfl | rfl | rfl | rfl | rfl := hoff
    · exact performAccess_write .res0 v s
    · exact performAccess_write .res1 v s
    · exact performAccess_write .crc v s
    · exact performAccess_write .status v s
    · exact performAccess_write .reserved v s

end

/-! # Proofs of the encoding family (30_encoding.md) -/

namespace Sys2Proof

variable {w : Word} {i : Instr} {opc : Byte}

/-! ## Command words -/

/-- The eleven lemmas on the form of a command's word, as one over all commands. -/
theorem encode_wordForm (i : Instr) : Laws.WordForm.Statement i := by
  cases i
  exacts [Laws.WordForm.pbit, Laws.WordForm.degree, Laws.WordForm.pmul, Laws.WordForm.divrem,
    Laws.WordForm.prem, Laws.WordForm.tread, Laws.WordForm.cclr, Laws.WordForm.cfold,
    Laws.WordForm.highb, Laws.WordForm.midb, Laws.WordForm.lowb]

/-- What the search of an opcode map finds is a row of the map. -/
theorem mem_of_lookupOpcode {map : List (Byte × Instr)} (h : lookupOpcode opc map = some i) :
    (opc, i) ∈ map := by
  induction map with
  | nil => cases h
  | cons row rest ih =>
    rw [lookupOpcode] at h
    split at h
    case isTrue hrow => cases h; cases hrow; exact List.mem_cons_self
    case isFalse => exact List.mem_cons_of_mem _ (ih h)

/-- Each row of the opcode map holds the opcode of its command's word (R44). -/
theorem opcodeMap_row_eq_opcField : ∀ row ∈ opcodeMap, row.1 = opcField (encode row.2) := by decide

/-- A word is a command's word exactly when its RSV is zero and the opcode map assigns its OPC to the
command (R42, R44). -/
theorem eq_encode_iff : w = encode i ↔ rsvField w = 0 ∧ (opcField w, i) ∈ opcodeMap := by
  obtain ⟨hrsv, hmem, -⟩ := encode_wordForm i
  refine ⟨?_, fun ⟨hzero, hrow⟩ => ?_⟩
  · rintro rfl
    exact ⟨hrsv, hmem⟩
  · have hopc : opcField w = opcField (encode i) := opcodeMap_row_eq_opcField _ hrow
    rw [word_eq_fields w, word_eq_fields (encode i), hzero, hrsv, hopc]

/-- The decoder answers a command exactly on that command's word (R42, R44, R46). -/
theorem decode_eq_ok_iff : decode w = .ok i ↔ w = encode i := by
  refine ⟨fun h => ?_, ?_⟩
  · rw [decode] at h
    split at h
    case isTrue => cases h
    case isFalse hrsv =>
      split at h
      · next j hlookup =>
        cases h
        exact eq_encode_iff.2 ⟨not_not.1 hrsv, mem_of_lookupOpcode hlookup⟩
      · cases h
  · rintro rfl
    exact Machine.decode_encode i

/-- A word that is no command's word is decoded to an error (R45). -/
theorem decode_error_of_ne_encode (h : ∀ i, w ≠ encode i) : ∃ e, decode w = .error e := by
  cases hw : decode w with
  | error e => exact ⟨e, rfl⟩
  | ok i => exact absurd (decode_eq_ok_iff.1 hw) (h i)

/-- The opcodes the map leaves unassigned, as the ranges of R45. -/
theorem opcode_unassigned_iff : (∀ i, (opc, i) ∉ opcodeMap) ↔
    opc.toNat = 0x00 ∨ (0x06 ≤ opc.toNat ∧ opc.toNat ≤ 0x0F) ∨
      (0x13 ≤ opc.toNat ∧ opc.toNat ≤ 0x1F) ∨ 0x23 ≤ opc.toNat := by
  have hrows : (∀ i, (opc, i) ∉ opcodeMap) ↔ opc ∉ opcodeMap.map Prod.fst := by simp
  rw [hrows]
  simp only [opcodeMap, List.map_cons, List.map_nil, List.mem_cons, List.not_mem_nil, or_false,
    ← BitVec.toNat_inj, BitVec.ofNat_eq_ofNat, BitVec.toNat_ofNat]
  omega

/-- The table's numbering of a 32-bit word is the word (R41). -/
theorem tableWord_toNat (w : Word) : tableWord 32 w.toNat = w := by
  simp [tableWord, Nat.mod_eq_of_lt w.isLt]

/-- The decoder reads a 32-bit row of the table as the word itself (R41, R47). -/
theorem decodeTableWord_of_decode (h : decode w = .ok i) :
    decodeTableWord 32 w.toNat = some i := by
  simp [decodeTableWord, tableWord_toNat, h]

end Sys2Proof

namespace Sys2Proof.Machine

variable {s t u : State} {i : Instr} {o : Operand} {v : Word} {n : HostName} {rest : List Line}

/-! ## Runs -/

/-- A run goes on from where it has come to. -/
theorem run_trans {j k : Nat} (hj : core.run j s = .next t) (hk : core.run k t = .next u) :
    core.run (j + k) s = .next u := by
  induction j generalizing s with
  | zero => cases hj; rwa [Nat.zero_add]
  | succ j ih =>
    rw [Nat.succ_add]
    simp only [Host.Core.run] at hj ⊢
    split at hj
    · next s' _ => exact ih hj
    · cases hj
    · cases hj

theorem run_one_of_step (h : step s = .next t) : core.run 1 s = .next t := by
  have h : core.step s = .next t := h
  simp only [Host.Core.run, h]

/-! ## The lines of an expansion

One lemma for each line that R49's expansions are made of: what the step that performs it answers. -/

theorem step_wrOpa (hp : s.phase = .ready) (hprog : s.host.program = .wrOpa o :: rest)
    (hv : operandValue s.host.names o = some v) :
    step s = .next (writeOpa v (setProgram rest s)) := by
  rw [step_of_line (by simp [hp]) hprog]
  exact withOperand_of_value hv _

theorem step_wrOpb (hp : s.phase = .ready) (hprog : s.host.program = .wrOpb o :: rest)
    (hv : operandValue s.host.names o = some v) :
    step s = .next (writeOpb v (setProgram rest s)) := by
  rw [step_of_line (by simp [hp]) hprog]
  exact withOperand_of_value hv _

theorem step_command (hp : s.phase = .ready) (hprog : s.host.program = .command i :: rest) :
    step s = exec i (setProgram rest s) :=
  stepRunsTheDecodedCommand.2 s i rest (by simp [hp]) hprog

theorem step_rdTo {r : BusReg} (hp : s.phase = .ready)
    (hprog : s.host.program = .rdTo r n :: rest) :
    step s = .next (keepName n (busRead r s) (deliverRead r (setProgram rest s))) := by
  rw [step_of_line (by simp [hp]) hprog]
  rfl

theorem step_assign (hp : s.phase = .ready) (hprog : s.host.program = .assign n v :: rest) :
    step s = .next (keepName n v (setProgram rest s)) := by
  rw [step_of_line (by simp [hp]) hprog]
  rfl

/-! ## Names -/

theorem lookupName_cons_self (n : HostName) (v : Word) (names : List (HostName × Word)) :
    lookupName n ((n, v) :: names) = some v := by
  simp [lookupName]

theorem lookupName_cons_of_ne {m : HostName} (h : m ≠ n) (v : Word)
    (names : List (HostName × Word)) : lookupName n ((m, v) :: names) = lookupName n names := by
  simp [lookupName, h]

/-- Keeping a value under one name leaves every other operand's value. -/
theorem operandValue_cons_of_ne (h : o ≠ .name n) (v : Word) (names : List (HostName × Word)) :
    operandValue ((n, v) :: names) o = operandValue names o := by
  cases o with
  | imm _ => rfl
  | name m => exact lookupName_cons_of_ne (by rintro rfl; exact h rfl) v names

/-! ## A command whose result the host keeps -/

/-- The core is in READY with the lines `rest` left, OPA is as before, and `v` is kept under `n` in
front of the names kept before. -/
structure KeptResult (n : HostName) (v : Word) (rest : List Line) (s t : State) : Prop where
  phase : t.phase = .ready
  opa : t.opa = s.opa
  names : t.host.names = (n, v) :: s.host.names
  program : t.host.program = rest

/-- A command that writes RES0, and the read that keeps it, as CONSTRUCT and FRAME use them (R49). -/
theorem run_command_rdTo {used : State} (hp : s.phase = .ready)
    (hprog : s.host.program = .command i :: .rdTo .res0 n :: rest)
    (huse : used = useOpa (setProgram (.rdTo .res0 n :: rest) s) ∨
      used = useOpb (useOpa (setProgram (.rdTo .res0 n :: rest) s)))
    (hexec : exec i (setProgram (.rdTo .res0 n :: rest) s) = .next (writeRes0 v used)) :
    ∃ t : State, core.run 2 s = .next t ∧ KeptResult n v rest s t := by
  have hused : used.phase = .ready ∧ used.opa = s.opa ∧ used.host.names = s.host.names ∧
      used.host.program = .rdTo .res0 n :: rest := by
    obtain rfl | rfl := huse <;> exact ⟨hp, rfl, rfl, rfl⟩
  obtain ⟨hphase, hopa, hnames, hprogram⟩ := hused
  have hcommand : step s = .next (writeRes0 v used) := by rw [step_command hp hprog, hexec]
  refine ⟨_, run_trans (run_one_of_step hcommand) (run_one_of_step (step_rdTo hphase hprogram)),
    hphase, hopa, ?_, rfl⟩
  exact congrArg ((n, v) :: ·) hnames

/-! ## HASH -/

/-- A table in which every entry is `genTable` of its index is the built table (R93). -/
theorem table_eq_builtTable (htable : TableBuilt s) (hp : s.phase = .ready) :
    s.table = builtTable := by
  refine Vector.ext fun k hk => ?_
  have hentry : tableEntry s.table (BitVec.ofNat 8 k) = tableEntry builtTable (BitVec.ofNat 8 k) :=
    (htable (by simp [hp]) _).trans (tableEntry_builtTable _).symm
  simpa [tableEntry, Nat.mod_eq_of_lt hk] using hentry

/-- The core is in READY with the lines `rest` left and the accumulator at `c`, and TABLE and the
names are as before. -/
structure FoldedTo (c : Crc) (rest : List Line) (s t : State) : Prop where
  crc : t.crc = c
  table : t.table = s.table
  phase : t.phase = .ready
  names : t.host.names = s.host.names
  program : t.host.program = rest

/-- One pass of HASH's loop folds its byte (R49, R66). -/
theorem run_foldPass {d : Byte} (hp : s.phase = .ready)
    (hprog : s.host.program = .wrOpa o :: .command .cfold :: rest)
    (hv : operandValue s.host.names o = some (d.setWidth 32)) :
    ∃ t : State, core.run 2 s = .next t ∧ FoldedTo (crcFold s.table s.crc d) rest s t := by
  have hbyte : (d.setWidth 32).extractLsb' 0 8 = d := by
    rw [BitVec.extractLsb'_setWidth_of_le (by decide), BitVec.extractLsb'_eq_self]
  have hwrite := step_wrOpa hp hprog hv
  have hfold := (step_command
    (s := writeOpa (d.setWidth 32) (setProgram (.command .cfold :: rest) s)) hp rfl).trans
    (exec_cfold_of_ready hp)
  refine ⟨_, run_trans (run_one_of_step hwrite) (run_one_of_step hfold), ?_, rfl, hp, rfl, rfl⟩
  exact congrArg (crcFold s.table s.crc) hbyte

/-- HASH's loop folds all its bytes, by induction on them (R49, R68). -/
theorem run_foldLines {ops : List Operand} {data : List Byte} (hp : s.phase = .ready)
    (hprog : s.host.program = foldLines ops ++ rest)
    (hv : ops.map (operandValue s.host.names) = data.map fun d => some (d.setWidth 32)) :
    ∃ t : State, core.run (2 * data.length) s = .next t ∧
      FoldedTo (foldBytes s.table s.crc data) rest s t := by
  induction data generalizing ops s with
  | nil =>
    obtain rfl : ops = [] := by simpa using hv
    exact ⟨s, rfl, rfl, rfl, hp, rfl, hprog⟩
  | cons d data ih =>
    obtain ⟨o, ops, rfl, ho, hops⟩ := List.map_eq_cons_iff.1 hv
    obtain ⟨t, ht, hfold⟩ := run_foldPass hp hprog ho
    obtain ⟨u, hu, hrest⟩ := ih hfold.phase hfold.program (by rw [hfold.names, hops])
    refine ⟨u, ?_, ?_, hrest.table.trans hfold.table, hrest.phase,
      hrest.names.trans hfold.names, hrest.program⟩
    · rw [List.length_cons, Nat.mul_succ, Nat.add_comm]
      exact run_trans ht hu
    · rw [hrest.crc, hfold.table, hfold.crc, foldBytes_cons]

/-! ## CONSTRUCT -/

/-- Bit `k` after PBIT at `n` (R51). -/
theorem getLsbD_or_one_shiftLeft (v : Word) (n : Nat) {k : Nat} (hk : k < 32) :
    (v ||| 1#32 <<< n).getLsbD k = (v.getLsbD k || n == k) := by
  rw [BitVec.getLsbD_or, ← BitVec.twoPow_eq, BitVec.getLsbD_twoPow]
  by_cases hn : n = k <;> simp [hn, hk]

/-- One pass of CONSTRUCT's loop sets its position in the value kept under `p` (R49, R51). -/
theorem run_constructPass {p : HostName} {v b : Word} (hp : s.phase = .ready)
    (hprog : s.host.program =
      .wrOpa (.name p) :: .wrOpb o :: .command .pbit :: .rdTo .res0 p :: rest)
    (hname : lookupName p s.host.names = some v) (hv : operandValue s.host.names o = some b)
    (hb : b.toNat < 32) :
    ∃ t : State, core.run 4 s = .next t ∧
      t.host.names = (p, v ||| 1#32 <<< b.toNat) :: s.host.names ∧ t.phase = .ready ∧ t.host.program = rest := by
  have hwriteA := step_wrOpa hp hprog hname
  have hwriteB := step_wrOpb (o := o) (v := b)
    (s := writeOpa v (setProgram (.wrOpb o :: .command .pbit :: .rdTo .res0 p :: rest) s))
    hp rfl hv
  obtain ⟨t, ht, hkept⟩ := run_command_rdTo (i := .pbit) (n := p) (rest := rest)
    (v := v ||| 1#32 <<< b.toNat)
    (s := writeOpb b (setProgram (.command .pbit :: .rdTo .res0 p :: rest)
      (writeOpa v (setProgram (.wrOpb o :: .command .pbit :: .rdTo .res0 p :: rest) s))))
    hp rfl (.inr rfl) (by simp [exec_pbit_of_ready, hp, pos, hb])
  exact ⟨t, run_trans (run_trans (run_one_of_step hwriteA) (run_one_of_step hwriteB)) ht,
    hkept.names, hkept.phase, hkept.program⟩

/-- CONSTRUCT's loop sets all its positions in the value kept under `p`, by induction on them (R49,
R51). -/
theorem run_constructLines {p : HostName} {v : Word} {ops : List Operand} {positions : List Word}
    (hp : s.phase = .ready) (hprog : s.host.program = constructLines p ops ++ rest)
    (hname : lookupName p s.host.names = some v) (hfresh : Operand.name p ∉ ops)
    (hv : ops.map (operandValue s.host.names) = positions.map some)
    (hrange : ∀ b ∈ positions, b.toNat < 32) :
    ∃ (t : State) (v' : Word), core.run (4 * positions.length) s = .next t ∧
      lookupName p t.host.names = some v' ∧
      (∀ k, k < 32 → v'.getLsbD k = (v.getLsbD k || positions.any fun b => b.toNat == k)) ∧
      t.phase = .ready ∧ t.host.program = rest := by
  induction positions generalizing ops s v with
  | nil =>
    obtain rfl : ops = [] := by simpa using hv
    exact ⟨s, v, rfl, hname, by simp, hp, hprog⟩
  | cons b positions ih =>
    obtain ⟨o, ops, rfl, ho, hops⟩ := List.map_eq_cons_iff.1 hv
    rw [List.mem_cons, not_or] at hfresh
    rw [List.forall_mem_cons] at hrange
    obtain ⟨t, ht, hnames, htp, htprog⟩ := run_constructPass hp hprog hname ho hrange.1
    have hsame : ops.map (operandValue t.host.names) = positions.map some := by
      rw [hnames, ← hops]
      exact List.map_congr_left fun x hx =>
        operandValue_cons_of_ne (ne_of_mem_of_not_mem hx hfresh.2) _ _
    obtain ⟨u, v', hu, hv', hbits, hup, huprog⟩ := ih htp htprog
      (by rw [hnames, lookupName_cons_self]) hfresh.2 hsame hrange.2
    refine ⟨u, v', ?_, hv', fun k hk => ?_, hup, huprog⟩
    · rw [List.length_cons, Nat.mul_succ, Nat.add_comm]
      exact run_trans ht hu
    · rw [hbits k hk, getLsbD_or_one_shiftLeft v _ hk, List.any_cons, Bool.or_assoc]

/-! ## FRAME -/

/-- Bits 23:0 of a zero-extended 24-bit value are the value. -/
theorem v24_of_opa {c : Crc} (h : s.opa = c.setWidth 32) : v24 s = c := by
  rw [v24, h, BitVec.extractLsb'_setWidth_of_le (by decide), BitVec.extractLsb'_eq_self]

/-! What the three accessors answer when OPA holds a zero-extended 24-bit value. -/

theorem exec_highb_of_opa {c : Crc} (hp : s.phase = .ready) (h : s.opa = c.setWidth 32) :
    exec .highb s = .next (writeRes0 ((highByte c).setWidth 32) (useOpa s)) := by
  rw [exec_highb_of_ready hp, v24_of_opa h, zext32]

theorem exec_midb_of_opa {c : Crc} (hp : s.phase = .ready) (h : s.opa = c.setWidth 32) :
    exec .midb s = .next (writeRes0 ((midByte c).setWidth 32) (useOpa s)) := by
  rw [exec_midb_of_ready hp, v24_of_opa h, zext32]

theorem exec_lowb_of_opa {c : Crc} (hp : s.phase = .ready) (h : s.opa = c.setWidth 32) :
    exec .lowb s = .next (writeRes0 ((lowByte c).setWidth 32) (useOpa s)) := by
  rw [exec_lowb_of_ready hp, v24_of_opa h, zext32]

end Sys2Proof.Machine

section
open Sys2Proof Sys2Proof.Machine

/-- Settles O2: the decoder's search of the opcode map finds the one row a word can have. -/
theorem wordsAndCommandsCorrespond : Obligations.WordsAndCommandsCorrespond :=
  fun _ _ => decode_eq_ok_iff

/-- Settles O3: a word is a command's word when its RSV is zero and its OPC is assigned, and the
ranges are the unassigned opcodes. -/
theorem everyOtherWordIsIllegal : Obligations.EveryOtherWordIsIllegal := by
  refine ⟨fun w => ?_, fun w s hp hw => ?_⟩
  · have hfields : (∀ i, w ≠ encode i) ↔
        rsvField w ≠ 0 ∨ ∀ i, (opcField w, i) ∉ opcodeMap := by
      simp only [ne_eq, eq_encode_iff, not_and_or, forall_or_left]
    rw [hfields, opcode_unassigned_iff]
    rfl
  · obtain ⟨e, he⟩ := decode_error_of_ne_encode hw
    rw [← raiseFault_illegalCommand]
    exact issueCommand_of_decode_error hp he

/-- Settles O56: CCLR clears the accumulator, the loop folds the bytes, and the read keeps CRC. -/
theorem hashPseudoCommandComputesTheHash : Obligations.HashPseudoCommandComputesTheHash := by
  intro ops data h s rest hinv hp hv hprog
  have hclear := (step_command hp hprog).trans (exec_cclr_of_ready hp)
  obtain ⟨t, ht, hfold⟩ := run_foldLines (rest := .rdTo .crc h :: rest)
    (s := writeCrc 0 (setProgram (foldLines ops ++ [.rdTo .crc h] ++ rest) s)) (data := data)
    hp (by simp) hv
  have hcrc : t.crc = crcHash data := by
    rw [hfold.crc, crcHash, ← table_eq_builtTable hinv.table hp]
    rfl
  refine ⟨keepName h (busRead .crc t) (deliverRead .crc (setProgram rest t)), ?_, hcrc, ?_,
    hfold.phase, rfl⟩
  · rw [show 2 * data.length + 2 = 1 + 2 * data.length + 1 by omega]
    exact run_trans (run_trans (run_one_of_step hclear) ht) (run_one_of_step
      (step_rdTo hfold.phase hfold.program))
  · simp [lookupName_cons_self, busRead, hcrc]

/-- Settles O57: the host's name begins at 0 and the loop sets the positions in it. -/
theorem constructPseudoCommandSetsExactlyItsBits :
    Obligations.ConstructPseudoCommandSetsExactlyItsBits := by
  intro ops positions p s rest hv hfresh hrange hp hprog
  have hassign := step_assign hp hprog
  obtain ⟨t, v, ht, hname, hbits, htp, htprog⟩ := run_constructLines (p := p) (v := 0) (ops := ops)
    (positions := positions) (rest := rest)
    (s := keepName p 0 (setProgram (constructLines p ops ++ rest) s)) hp rfl
    (lookupName_cons_self p 0 _) hfresh
    (hv ▸ List.map_congr_left fun x hx =>
      operandValue_cons_of_ne (ne_of_mem_of_not_mem hx hfresh) _ _) hrange
  refine ⟨t, v, ?_, hname, fun k hk => by simp [hbits k hk], htp, htprog⟩
  rw [Nat.add_comm]
  exact run_trans (run_one_of_step hassign) ht

/-- Settles O58: each accessor leaves OPA for the next one, and the three names are distinct. -/
theorem framePseudoCommandGivesTheCheckBytes : Obligations.FramePseudoCommandGivesTheCheckBytes := by
  intro o v hi mid lo s rest hhm hhl hml hp hv hprog
  obtain ⟨t, ht, hpT, hopaT, hprogT⟩ : ∃ t, step s = .next t ∧ t.phase = .ready ∧
      t.opa = v.setWidth 32 ∧
      t.host.program = (expand (.frame o hi mid lo) ++ rest).tail :=
    ⟨_, step_wrOpa hp hprog hv, hp, rfl, rfl⟩
  obtain ⟨a, ha, hpA, hopaA, hnamesA, hprogA⟩ :=
    run_command_rdTo hpT hprogT (.inl rfl) (exec_highb_of_opa hpT hopaT)
  have hopaA := hopaA.trans hopaT
  obtain ⟨b, hb, hpB, hopaB, hnamesB, hprogB⟩ :=
    run_command_rdTo hpA hprogA (.inl rfl) (exec_midb_of_opa hpA hopaA)
  have hopaB := hopaB.trans hopaA
  obtain ⟨c, hc, hpC, -, hnamesC, hprogC⟩ :=
    run_command_rdTo hpB hprogB (.inl rfl) (exec_lowb_of_opa hpB hopaB)
  refine ⟨c, run_trans (run_trans (run_trans (run_one_of_step ht) ha) hb) hc, ?_, hpC, hprogC⟩
  simp [hnamesC, hnamesB, hnamesA, lookupName_cons_self, lookupName_cons_of_ne, checkBytes, hhm.symm,
    hhl.symm, hml.symm]

/-- Settles O1: the eleven words are the commands' own, and the four others fail in their one
field. -/
theorem commandWordsDecodeAsTheMapSays : Obligations.CommandWordsDecodeAsTheMapSays :=
  ⟨decode_encode .pbit, decode_encode .degree, decode_encode .pmul, decode_encode .divrem,
    decode_encode .prem, decode_encode .tread, decode_encode .cclr, decode_encode .cfold,
    decode_encode .highb, decode_encode .midb, decode_encode .lowb,
    by decide, by decide, by decide, by decide⟩

/-- Settles O4. The table's numbering of a word loses no bit of it. -/
theorem encodedCommandDecodesBack : Obligations.EncodedCommandDecodesBack :=
  fun i => ⟨decode_encode i, decodeTableWord_of_decode (decode_encode i)⟩

/-- Settles O36: a write to CMD answers in every phase, as a write to any register does. -/
theorem everyCommandWordCompletes : Obligations.EveryCommandWordCompletes :=
  busWrite_answers .cmd

/-- Settles O59: the line is a read, and a note in the host's record of whether it held. -/
theorem expectRecordsWhetherTheValueHeld : Obligations.ExpectRecordsWhetherTheValueHeld := by
  intro r o v s hv
  refine ⟨noteExpect (busRead r s == v) (deliverRead r s), withOperand_of_value hv _, rfl, rfl, ?_⟩
  simp only [noteExpect_host, deliverRead_host, Bool.and_eq_true, beq_iff_eq]

end

/-! # Proofs of the polynomial family (40_poly_arith.md) -/

namespace Sys2Proof.Machine

section
open Polynomial

variable {b p q r t x y z : Word} {db j k m n fuel : Nat}

/-! ## The degree -/

/-- Bit `n` is the highest set bit of `p`. -/
structure TopBit (p : Word) (n : Nat) : Prop where
  set : p.getLsbD n = true
  above : ∀ k, n < k → p.getLsbD k = false

theorem TopBit.ne_zero (h : TopBit p n) : p ≠ 0 := by
  rintro rfl
  simpa using h.set

/-- The highest set bit of a 32-bit word is at most bit 31. -/
theorem TopBit.le (h : TopBit p n) : n ≤ 31 := Nat.le_of_lt_succ (BitVec.lt_of_getLsbD h.set)

/-- Every word but 0 has a highest set bit. -/
theorem exists_topBit (h : p ≠ 0) : ∃ n, TopBit p n := by
  obtain ⟨n, hset, habove⟩ := Nat.exists_most_significant_bit
    (fun h0 => h (BitVec.eq_of_toNat_eq h0))
  exact ⟨n, hset, habove⟩

/-- A word whose highest set bit is bit 0 is 1. -/
theorem topBit_zero_iff : TopBit p 0 ↔ p = 1 := by
  refine ⟨fun h => BitVec.eq_of_getLsbD_eq fun k _ => ?_, ?_⟩
  · rcases k with _ | k
    · simpa using h.set
    · simpa using h.above (k + 1) k.succ_pos
  · rintro rfl
    exact ⟨rfl, fun k hk => by simp; omega⟩

/-- Shifting right by one moves the highest set bit down by one. -/
theorem TopBit.shiftRight_one (h : TopBit p (n + 1)) : TopBit (p >>> 1) n := by
  refine ⟨?_, fun k hk => ?_⟩
  · simpa [Nat.add_comm] using h.set
  · simpa using h.above (1 + k) (by omega)

/-- The loop of `deg` counts the shifts until 1 is left. -/
theorem degLoop_of_topBit (hfuel : m ≤ fuel) (h : TopBit p m) :
    degLoop fuel p n = n + m := by
  induction fuel generalizing p n m with
  | zero => rw [Nat.le_zero.1 hfuel]; rfl
  | succ fuel ih =>
    rw [degLoop]
    cases m with
    | zero => rw [if_pos (topBit_zero_iff.1 h), Nat.add_zero]
    | succ m =>
      have hne : p ≠ 1 := by
        rintro rfl
        simpa using h.set
      rw [if_neg hne, ih (Nat.le_of_succ_le_succ hfuel) h.shiftRight_one, Nat.add_assoc,
        Nat.add_comm 1]

/-- `deg` answers the highest set bit (R52). -/
theorem deg_eq_some_iff : deg p = some n ↔ TopBit p n := by
  have hdeg {m : Nat} (h : TopBit p m) : deg p = some m := by
    rw [deg, if_neg h.ne_zero, degLoop_of_topBit h.le h, Nat.zero_add]
  refine ⟨fun h => ?_, hdeg⟩
  obtain ⟨m, hm⟩ := exists_topBit (p := p) (mt deg_eq_none_iff.2 (by simp [h]))
  cases (hdeg hm).symm.trans h
  exact hm

theorem exists_deg (h : p ≠ 0) : ∃ n, deg p = some n := by
  obtain ⟨n, hn⟩ := exists_topBit h
  exact ⟨n, deg_eq_some_iff.2 hn⟩

/-! ## Bits as coefficients -/

/-- A bit as a coefficient over GF(2) (R5). -/
def bitCoeff (v : Bool) : ZMod 2 := if v then 1 else 0

@[simp] theorem bitCoeff_false : bitCoeff false = 0 := rfl

@[simp] theorem bitCoeff_true : bitCoeff true = 1 := rfl

theorem bitCoeff_injective : Function.Injective bitCoeff := by decide

theorem bitCoeff_xor (u v : Bool) : bitCoeff (u ^^ v) = bitCoeff u + bitCoeff v := by
  cases u <;> cases v <;> decide

theorem bitCoeff_and (u v : Bool) : bitCoeff (u && v) = bitCoeff u * bitCoeff v := by
  cases u <;> cases v <;> decide

/-- The XOR of a list of bits is the sum of their coefficients. -/
theorem bitCoeff_foldr_xor (vs : List Bool) :
    bitCoeff (vs.foldr Bool.xor false) = (vs.map bitCoeff).sum := by
  induction vs with
  | nil => rfl
  | cons v vs ih => rw [List.foldr_cons, bitCoeff_xor, ih, List.map_cons, List.sum_cons]

/-! ## Words as polynomials -/

/-- The polynomial a word stands for (R5). -/
noncomputable def poly {w : Nat} (v : BitVec w) : (ZMod 2)[X] := (exists_represents v).choose

theorem represents_poly {w : Nat} (v : BitVec w) : Represents v (poly v) :=
  (exists_represents v).choose_spec

theorem coeff_poly {w : Nat} (v : BitVec w) (k : Nat) :
    (poly v).coeff k = bitCoeff (v.getLsbD k) := represents_poly v k

theorem poly_injective {w : Nat} : Function.Injective (poly (w := w)) := by
  intro u v h
  refine BitVec.eq_of_getLsbD_eq fun k _ => bitCoeff_injective ?_
  rw [← coeff_poly, h, coeff_poly]

@[simp] theorem poly_zero {w : Nat} : poly 0#w = 0 := by
  ext k
  simp [coeff_poly]

@[simp] theorem poly_one : poly 1#32 = 1 := by
  ext k
  rcases k with _ | k <;> simp [coeff_poly, coeff_one]

/-- XOR is addition of polynomials (R5). -/
theorem poly_xor {w : Nat} (u v : BitVec w) : poly (u ^^^ v) = poly u + poly v := by
  ext k
  rw [coeff_add, coeff_poly, coeff_poly, coeff_poly, BitVec.getLsbD_xor, bitCoeff_xor]

/-- A word of `w` bits stands for a polynomial of degree below `w`. -/
theorem degree_poly_lt {w : Nat} (v : BitVec w) : (poly v).degree < w := by
  refine (degree_lt_iff_coeff_zero _ _).2 fun k hk => ?_
  rw [coeff_poly, BitVec.getLsbD_of_ge v k hk, bitCoeff_false]

/-- `deg` is the degree of the polynomial (R52). -/
theorem degree_poly_of_deg (h : deg p = some n) : (poly p).degree = n := by
  obtain ⟨hset, habove⟩ := deg_eq_some_iff.1 h
  refine degree_eq_of_le_of_coeff_ne_zero (degree_le_iff_coeff_zero _ _ |>.2 fun k hk => ?_) ?_
  · rw [coeff_poly, habove k (by exact_mod_cast hk), bitCoeff_false]
  · rw [coeff_poly, hset]
    exact one_ne_zero

/-- A remainder (R56, R60) is a polynomial of lower degree than the divisor's. -/
theorem isRemainderFor_iff (hb : b ≠ 0) :
    IsRemainderFor b r ↔ (poly r).degree < (poly b).degree := by
  obtain ⟨db, hdb⟩ := exists_deg hb
  rw [degree_poly_of_deg hdb]
  by_cases hr : r = 0
  · exact iff_of_true (.inl hr) (by simp [hr])
  · obtain ⟨dr, hdr⟩ := exists_deg hr
    simp only [IsRemainderFor, hr, hdr, hdb, degree_poly_of_deg hdr, false_or]
    simp

/-! ## Products modulo `x^32` -/

/-- The residue class of a word's polynomial modulo `x^32`. -/
noncomputable def residue (v : Word) : AdjoinRoot (X ^ 32 : (ZMod 2)[X]) := AdjoinRoot.mk _ (poly v)

/-- A word has the residue of a polynomial when the coefficients below `x^32` agree. -/
theorem residue_eq_mk_iff {f : (ZMod 2)[X]} :
    residue x = AdjoinRoot.mk _ f ↔ ∀ k < 32, (poly x).coeff k = f.coeff k := by
  simp only [residue, AdjoinRoot.mk_eq_mk, X_pow_dvd_iff, coeff_sub, sub_eq_zero]

/-- A polynomial of degree below 32 is the one of the word with its residue: nothing is lost. -/
theorem poly_eq_of_residue_eq {f : (ZMod 2)[X]} (hf : f.degree < 32)
    (h : residue x = AdjoinRoot.mk _ f) : poly x = f := by
  ext k
  by_cases hk : k < 32
  · exact residue_eq_mk_iff.1 h k hk
  · have hk : 32 ≤ k := Nat.le_of_not_lt hk
    rw [(degree_lt_iff_coeff_zero _ _).1 (degree_poly_lt x) k hk,
      (degree_lt_iff_coeff_zero _ _).1 hf k hk]

theorem residue_injective : Function.Injective residue := fun _ y h =>
  poly_injective (poly_eq_of_residue_eq (degree_poly_lt y) h)

@[simp] theorem residue_zero : residue 0#32 = 0 := by simp [residue]

@[simp] theorem residue_one : residue 1#32 = 1 := by simp [residue]

theorem residue_xor (x y : Word) : residue (x ^^^ y) = residue x + residue y := by
  rw [residue, poly_xor, map_add, residue, residue]

/-- A left shift multiplies by a power of `x`, and loses what reaches `x^32`. -/
theorem residue_shiftLeft (x : Word) (n : Nat) :
    residue (x <<< n) = residue x * AdjoinRoot.root _ ^ n := by
  rw [residue.eq_def x, ← AdjoinRoot.mk_X, ← map_pow, ← map_mul, residue_eq_mk_iff]
  intro k hk
  rw [coeff_poly, coeff_mul_X_pow', coeff_poly, BitVec.getLsbD_shiftLeft]
  by_cases hn : n ≤ k
  · simp [hn, hk, Nat.not_lt_of_le hn]
  · simp [hn, Nat.lt_of_not_le hn]

/-- A word's polynomial, its lowest bit apart. -/
theorem poly_eq_lowBit_add (y : Word) :
    poly y = C (bitCoeff (y.getLsbD 0)) + poly (y >>> 1) * X := by
  ext k
  rcases k with _ | k
  · rw [coeff_add, coeff_C_zero, coeff_mul_X_zero, coeff_poly, add_zero]
  · rw [coeff_add, coeff_C_succ, coeff_mul_X, coeff_poly, coeff_poly, BitVec.getLsbD_ushiftRight,
      Nat.add_comm 1, zero_add]

theorem residue_eq_lowBit_add (y : Word) : residue y =
    AdjoinRoot.mk _ (C (bitCoeff (y.getLsbD 0))) + residue (y >>> 1) * AdjoinRoot.root _ := by
  rw [residue, poly_eq_lowBit_add, map_add, map_mul, AdjoinRoot.mk_X, residue]

/-- Adding a multiplicand where a bit is set adds its multiple by the bit. -/
theorem residue_ite_xor (c : Bool) (acc x : Word) : residue (if c then acc ^^^ x else acc) =
    residue acc + AdjoinRoot.mk _ (C (bitCoeff c)) * residue x := by
  cases c <;> simp [residue_xor]

/-- The loop of `pmul` adds the product to its accumulator (R54). -/
theorem residue_pmulLoop (acc : Word) (hy : y.toNat < 2 ^ fuel) :
    residue (pmulLoop fuel x y acc) = residue acc + residue x * residue y := by
  induction fuel generalizing x y acc with
  | zero =>
    obtain rfl : y = 0 := BitVec.eq_of_toNat_eq (by simpa using hy)
    simp [pmulLoop]
  | succ fuel ih =>
    rw [pmulLoop]
    split
    case isTrue hzero => simp [hzero]
    case isFalse =>
      have hhalf : (y >>> 1).toNat < 2 ^ fuel := by
        rw [BitVec.toNat_ushiftRight, Nat.shiftRight_one]
        omega
      rw [ih _ hhalf, residue_shiftLeft, residue_ite_xor, residue_eq_lowBit_add y]
      ring

/-- `pmul` is multiplication modulo `x^32` (R54). -/
theorem residue_pmul (x y : Word) : residue (pmul x y) = residue x * residue y := by
  rw [pmul, residue_pmulLoop 0 y.isLt]
  simp

theorem pmul_comm (x y : Word) : pmul x y = pmul y x :=
  residue_injective (by rw [residue_pmul, residue_pmul, mul_comm])

theorem residue_pmul_eq_mk (x y : Word) :
    residue (pmul x y) = AdjoinRoot.mk _ (poly x * poly y) := by
  rw [residue_pmul, residue, residue, map_mul]

/-- Below `x^32` the coefficients of `pmul` are those of the exact product (R54). -/
theorem coeff_poly_pmul (hk : k < 32) : (poly (pmul x y)).coeff k = (poly x * poly y).coeff k :=
  residue_eq_mk_iff.1 (residue_pmul_eq_mk x y) k hk

/-- A product fits exactly when its degree is below 32 (R50). -/
theorem productFits_iff : ProductFits x y ↔ (poly x * poly y).degree < 32 := by
  by_cases hx : x = 0
  · exact iff_of_true (fun _ _ h => by simp [hx, deg] at h)
      ((degree_lt_iff_coeff_zero _ 32).2 (by simp [hx]))
  by_cases hy : y = 0
  · exact iff_of_true (fun _ _ _ h => by simp [hy, deg] at h)
      ((degree_lt_iff_coeff_zero _ 32).2 (by simp [hy]))
  obtain ⟨dx, hdx⟩ := exists_deg hx
  obtain ⟨dy, hdy⟩ := exists_deg hy
  rw [degree_mul, degree_poly_of_deg hdx, degree_poly_of_deg hdy]
  have hcast : ((dx : WithBot ℕ) + dy < 32) ↔ dx + dy < 32 := by norm_cast
  simp [hcast, ProductFits, hdx, hdy, Nat.lt_succ_iff]

/-- A product that fits loses nothing (R50). -/
theorem poly_pmul (h : ProductFits x y) : poly (pmul x y) = poly x * poly y :=
  poly_eq_of_residue_eq (productFits_iff.1 h) (residue_pmul_eq_mk x y)

/-! ## Division -/

/-- A left shift that keeps the highest set bit loses nothing. -/
theorem poly_shiftLeft (hx : deg x = some n) (hn : n + j < 32) :
    poly (x <<< j) = poly x * X ^ j := by
  refine poly_eq_of_residue_eq ?_ ?_
  · rw [degree_mul_X_pow, degree_poly_of_deg hx]
    exact_mod_cast hn
  · rw [residue_shiftLeft, residue, map_mul, map_pow, AdjoinRoot.mk_X]

theorem monic_poly (hb : b ≠ 0) : (poly b).Monic := by
  obtain ⟨db, hdb⟩ := exists_deg hb
  rw [Monic, leadingCoeff, natDegree_eq_of_degree_eq_some (degree_poly_of_deg hdb), coeff_poly,
    (deg_eq_some_iff.1 hdb).set, bitCoeff_true]

/-- Shifting the divisor up to the dividend's degree and subtracting cancels the leading term. -/
theorem degree_poly_cancel (hdt : deg t = some n) (hdb : deg b = some db) (hle : db ≤ n) :
    (poly (t ^^^ b <<< (n - db))).degree < n := by
  have ht : t ≠ 0 := (deg_eq_some_iff.1 hdt).ne_zero
  have hb : b ≠ 0 := (deg_eq_some_iff.1 hdb).ne_zero
  have hn : n ≤ 31 := (deg_eq_some_iff.1 hdt).le
  have hmonic : (poly b * X ^ (n - db)).Monic := (monic_poly hb).mul (monic_X_pow _)
  have hdegree : (poly t).degree = (poly b * X ^ (n - db)).degree := by
    rw [degree_mul_X_pow, degree_poly_of_deg hdt, degree_poly_of_deg hdb]
    exact_mod_cast (Nat.add_sub_cancel' hle).symm
  rw [poly_xor, poly_shiftLeft hdb (by omega), ← CharTwo.sub_eq_add, ← degree_poly_of_deg hdt]
  exact degree_sub_lt_left hdegree (monic_poly ht).ne_zero
    ((monic_poly ht).trans hmonic.symm)

/-- The loop of `pdivrem` keeps quotient times divisor plus dividend, and ends with a remainder:
each pass cancels the dividend's leading term (R56). -/
theorem pdivremLoop_spec (hdb : deg b = some db) (ht : (poly t).degree < fuel)
    (h : pdivremLoop b db fuel t q = (z, r)) :
    poly z * poly b + poly r = poly q * poly b + poly t ∧ (poly r).degree < (poly b).degree := by
  have hzero : (poly (0 : Word)).degree < (poly b).degree := by
    simp [degree_poly_of_deg hdb]
  induction fuel generalizing t q with
  | zero =>
    obtain rfl : t = 0 := poly_injective (by simpa using ht)
    cases h
    exact ⟨rfl, hzero⟩
  | succ fuel ih =>
    rw [pdivremLoop] at h
    split at h
    case h_1 hdeg =>
      obtain rfl : t = 0 := deg_eq_none_iff.1 hdeg
      cases h
      exact ⟨rfl, hzero⟩
    case h_2 dt hdt =>
      split at h
      case isTrue hlt =>
        cases h
        rw [degree_poly_of_deg hdt, degree_poly_of_deg hdb]
        exact ⟨rfl, by exact_mod_cast hlt⟩
      case isFalse hge =>
        have hle : db ≤ dt := Nat.le_of_not_lt hge
        have hdt31 : dt ≤ 31 := (deg_eq_some_iff.1 hdt).le
        have hdrop : (poly (t ^^^ b <<< (dt - db))).degree < fuel := by
          refine (degree_poly_cancel hdt hdb hle).trans_le ?_
          rw [degree_poly_of_deg hdt] at ht
          exact_mod_cast Nat.le_of_lt_succ (by exact_mod_cast ht)
        obtain ⟨hsum, hrem⟩ := ih hdrop h
        refine ⟨hsum.trans ?_, hrem⟩
        rw [poly_xor, poly_xor, poly_shiftLeft hdb (by omega),
          poly_shiftLeft (n := 0) rfl (by omega), poly_one]
        linear_combination poly b * X ^ (dt - db) * CharTwo.two_eq_zero (R := (ZMod 2)[X])

/-- Division by a divisor other than 0 answers (R56). -/
theorem exists_pdivrem (t : Word) (hb : b ≠ 0) : ∃ q r, pdivrem t b = some (q, r) := by
  obtain ⟨db, hdb⟩ := exists_deg hb
  exact ⟨_, _, pdivrem_of_deg hdb⟩

/-- What `pdivrem` answers satisfies the division identity of polynomials (R60). -/
theorem poly_of_pdivrem (hb : b ≠ 0) (h : pdivrem t b = some (q, r)) :
    poly q * poly b + poly r = poly t ∧ (poly r).degree < (poly b).degree := by
  obtain ⟨db, hdb⟩ := exists_deg hb
  rw [pdivrem_of_deg hdb, Option.some_inj] at h
  simpa using pdivremLoop_spec hdb (degree_poly_lt t) h

/-- `pdivrem` answers quotient and remainder of the polynomials, and they are the only pair (R56,
R60). -/
theorem pdivrem_eq_some_iff_poly (hb : b ≠ 0) : pdivrem t b = some (q, r) ↔
    poly q * poly b + poly r = poly t ∧ (poly r).degree < (poly b).degree := by
  have hunique {q r : Word}
      (h : poly q * poly b + poly r = poly t ∧ (poly r).degree < (poly b).degree) :
      poly t /ₘ poly b = poly q ∧ poly t %ₘ poly b = poly r :=
    div_modByMonic_unique _ _ (monic_poly hb) ⟨by rw [← h.1]; ring, h.2⟩
  refine ⟨poly_of_pdivrem hb, fun h => ?_⟩
  obtain ⟨q', r', h'⟩ := exists_pdivrem t hb
  obtain ⟨hdiv, hmod⟩ := hunique h
  obtain ⟨hdiv', hmod'⟩ := hunique (poly_of_pdivrem hb h')
  rw [h', poly_injective (hdiv'.symm.trans hdiv), poly_injective (hmod'.symm.trans hmod)]

/-- Where the product of quotient and divisor fits, the identity of words is the identity of
polynomials (R60). -/
theorem pmul_xor_eq_iff (h : ProductFits q b) :
    pmul q b ^^^ r = t ↔ poly q * poly b + poly r = poly t := by
  rw [← poly_pmul h, ← poly_xor, poly_injective.eq_iff]

/-- The division identity of polynomials leaves the product of quotient and divisor no degree above
31 (R60). -/
theorem productFits_of_division (h : poly q * poly b + poly r = poly t) : ProductFits q b := by
  rw [productFits_iff, eq_sub_of_add_eq h, CharTwo.sub_eq_add, ← poly_xor]
  exact degree_poly_lt _

/-- `pdivrem` answers the one pair of quotient and remainder whose product fits (R56, R60). -/
theorem pdivrem_eq_some_iff (hb : b ≠ 0) : pdivrem t b = some (q, r) ↔
    ProductFits q b ∧ pmul q b ^^^ r = t ∧ IsRemainderFor b r := by
  rw [pdivrem_eq_some_iff_poly hb, isRemainderFor_iff hb]
  constructor
  · rintro ⟨hsum, hrem⟩
    have hfits := productFits_of_division hsum
    exact ⟨hfits, (pmul_xor_eq_iff hfits).2 hsum, hrem⟩
  · rintro ⟨hfits, hsum, hrem⟩
    exact ⟨(pmul_xor_eq_iff hfits).1 hsum, hrem⟩

theorem prem_of_pdivrem (h : pdivrem t b = some (q, r)) : prem t b = some r := by
  rw [prem, h, Option.map_some]

end

/-! ## The commands -/

section
variable {s : State}

/-- A command that uses both operands notes whether both held a value (R100). -/
theorem useOpb_useOpa (s : State) : useOpb (useOpa s) =
    { s with host := hostAfterUse (s.written.opa && s.written.opb) s.host } := by
  simp only [useOpb, useOpa, noteUse, hostAfterUse, Bool.not_and, Bool.or_assoc]

/-- The frame of a command that uses OPA and writes RES0. -/
theorem changesOnlyRes0_useOpa (v : Word) (s : State) :
    ChangesOnlyRes0 s.written.opa s (writeRes0 v (useOpa s)) := rfl

/-- The frame of a command that uses both operands and writes RES0. -/
theorem changesOnlyRes0_useOpb_useOpa (v : Word) (s : State) :
    ChangesOnlyRes0 (s.written.opa && s.written.opb) s (writeRes0 v (useOpb (useOpa s))) := by
  rw [useOpb_useOpa]
  rfl

/-- The frame of DIVREM. -/
theorem changesOnlyResults_useOpb_useOpa (q r : Word) (s : State) :
    ChangesOnlyResults (s.written.opa && s.written.opb) s
      (writeRes1 r (writeRes0 q (useOpb (useOpa s)))) := by
  rw [useOpb_useOpa]
  rfl

/-- DIVREM leaves in RES0 and RES1 what `pdivrem` answers (R58). -/
theorem exec_divrem_of_pdivrem {q r : Word} (hp : s.phase = .ready)
    (h : pdivrem s.opa s.opb = some (q, r)) :
    exec .divrem s = .next (writeRes1 r (writeRes0 q (useOpb (useOpa s)))) := by
  rw [exec_divrem_of_ready hp, h]

/-- Fault entry of a command that uses both operands (R82). -/
theorem raiseFault_useOpb_useOpa (c : FaultCause) (s : State) : raiseFault c (useOpb (useOpa s)) =
    faultedState (causeCode c) (s.written.opa && s.written.opb) s := by
  rw [useOpb_useOpa]
  rfl

end

end Sys2Proof.Machine

section
open Sys2Proof Sys2Proof.Machine

/-- Settles O7: the loop of `deg` counts the shifts down to the highest set bit. -/
theorem degreeIsHighestSetBit : Obligations.DegreeIsHighestSetBit := by
  refine fun p => ⟨deg_eq_none_iff.2, fun hp => ?_⟩
  obtain ⟨n, hn⟩ := exists_topBit hp
  exact ⟨n, deg_eq_some_iff.2 hn, hn.le, hn.set, hn.above⟩

/-- Settles O8: the coefficient of the product of polynomials, read as bits. -/
theorem pmulClosedForm : Obligations.PmulClosedForm := by
  intro x y k hk
  refine bitCoeff_injective ?_
  rw [← coeff_poly, coeff_poly_pmul hk, Polynomial.coeff_mul,
    Finset.Nat.sum_antidiagonal_eq_sum_range_succ fun i j => (poly x).coeff i * (poly y).coeff j,
    bitCoeff_foldr_xor, List.map_map]
  simp only [coeff_poly, ← bitCoeff_and]
  rfl

/-- Settles O9, by the laws of multiplication modulo `x^32`. -/
theorem pmulLaws : Obligations.PmulLaws := by
  refine ⟨pmul_comm, fun x y z => ?_, fun x y z => ?_, fun x => ⟨?_, ?_⟩, fun x n _ => ?_⟩
    <;> refine residue_injective ?_
  · simp only [residue_pmul, mul_assoc]
  · simp only [residue_pmul, residue_xor, mul_add]
  · simp [residue_pmul]
  · simp [residue_pmul]
  · simp [residue_pmul, residue_shiftLeft]

/-- Settles O10. The second order of the factors is commutativity. -/
theorem divisionIdentity : Obligations.DivisionIdentity := by
  intro t b hb
  obtain ⟨q, r, h⟩ := exists_pdivrem t hb
  obtain ⟨hfits, hsum, hrem⟩ := (pdivrem_eq_some_iff hb).1 h
  exact ⟨q, r, h, hsum, pmul_comm b q ▸ hsum, hrem, hfits⟩

/-- Settles O11, by the uniqueness of quotient and remainder of polynomials. -/
theorem divisionPairUnique : Obligations.DivisionPairUnique :=
  fun _ _ _ _ hb hfits hsum hrem => (pdivrem_eq_some_iff hb).2 ⟨hfits, hsum, hrem⟩

/-- Settles O23: `deg` of OPA decides between RES0 and the fault. -/
theorem degreeGivesTheHighestBit : Obligations.DegreeGivesTheHighestBit := by
  refine ⟨decode_encode .degree, fun s hp ha => ?_, fun s hp ha => ?_⟩
  · obtain ⟨n, hn⟩ := exists_topBit ha
    have hnat : (BitVec.ofNat 32 n).toNat = n :=
      BitVec.toNat_ofNat n 32 ▸ Nat.mod_eq_of_lt (Nat.lt_of_le_of_lt hn.le (by decide))
    refine ⟨_, by rw [exec_degree_of_ready hp, deg_eq_some_iff.2 hn], ?_,
      changesOnlyRes0_useOpa _ s⟩
    rw [writeRes0_res0, hnat]
    exact ⟨Nat.lt_succ_of_le hn.le, hn.set, hn.above⟩
  · rw [exec_degree_of_ready hp, deg_eq_none_iff.2 ha]
    rfl

/-- Settles O27, by the division identity of the answer DIVREM leaves in RES0 and RES1. -/
theorem divremSatisfiesTheDivisionIdentity : Obligations.DivremSatisfiesTheDivisionIdentity := by
  intro s hp hb
  obtain ⟨q, r, h⟩ := exists_pdivrem s.opa hb
  obtain ⟨-, hsum, hrem⟩ := (pdivrem_eq_some_iff hb).1 h
  exact ⟨_, exec_divrem_of_pdivrem hp h, hsum, hrem⟩

/-- Refutes O12: `x * x^31` is lost, so 2 is as good a quotient of 0 by `x^31` as 0 is. -/
theorem not_divisionPairUniqueWithoutFit : ¬ Obligations.DivisionPairUniqueWithoutFit := by
  intro h
  have hanswer : pdivrem 0 0x80000000 = some (0, 0) := by decide
  have hwrong : pdivrem 0 0x80000000 = some (2, 0) :=
    h 0 0x80000000 2 0 (by decide) (by decide) (.inl rfl)
  exact absurd (hanswer.symm.trans hwrong) (by decide)

/-- Settles O13: the divisor's degree is asked for before the dividend is looked at. -/
theorem divisionFailsOnlyByZero : Obligations.DivisionFailsOnlyByZero :=
  fun _ _ => ⟨pdivrem_eq_none_iff, prem_eq_none_iff, fun _ _ => prem_of_pdivrem⟩

/-- Settles O22, by the check of OPB's range. -/
theorem pbitSetsOneCoefficient : Obligations.PbitSetsOneCoefficient := by
  refine ⟨decode_encode .pbit, fun s hp hb => ?_, fun s hp hb => ?_⟩
  · refine ⟨_, by rw [exec_pbit_of_ready hp, pos, if_pos hb], fun k hk => ?_,
      changesOnlyRes0_useOpb_useOpa _ s⟩
    rw [writeRes0_res0, getLsbD_or_one_shiftLeft _ _ hk, Bool.beq_comm]
  · rw [exec_pbit_of_ready hp, pos, if_neg (Nat.not_lt_of_le hb)]
    exact congrArg _ (raiseFault_useOpb_useOpa .operandRange s)

/-- Settles O24: PMUL checks nothing. -/
theorem pmulMultiplies : Obligations.PmulMultiplies :=
  ⟨decode_encode .pmul, fun s hp =>
    ⟨_, exec_pmul_of_ready hp, rfl, changesOnlyRes0_useOpb_useOpa _ s⟩⟩

/-- Settles O25: `pdivrem` of the operands decides between the results and the fault. -/
theorem divremDivides : Obligations.DivremDivides := by
  refine ⟨decode_encode .divrem, fun s hp hb => ?_, fun s hp hb => ?_⟩
  · obtain ⟨q, r, h⟩ := exists_pdivrem s.opa hb
    exact ⟨_, exec_divrem_of_pdivrem hp h, h, changesOnlyResults_useOpb_useOpa q r s⟩
  · rw [exec_divrem_of_ready hp, pdivrem_eq_none_iff.2 hb]
    exact congrArg _ (raiseFault_useOpb_useOpa .divisionByZero s)

/-- Settles O26: `prem` of the operands decides between RES0 and the fault. -/
theorem premGivesTheRemainder : Obligations.PremGivesTheRemainder := by
  refine ⟨decode_encode .prem, fun s hp hb => ?_, fun s hp hb => ?_⟩
  · obtain ⟨q, r, h⟩ := exists_pdivrem s.opa hb
    have hprem := prem_of_pdivrem h
    exact ⟨_, by rw [exec_prem_of_ready hp, hprem], hprem, changesOnlyRes0_useOpb_useOpa r s⟩
  · rw [exec_prem_of_ready hp, prem_eq_none_iff.2 hb]
    exact congrArg _ (raiseFault_useOpb_useOpa .divisionByZero s)

end

/-! # Proofs of the CRC engine family (41_crc_engine.md) -/

namespace Sys2Proof.Machine

section
open Polynomial

variable {q r : Word} {c : Crc} {f m n p : (ZMod 2)[X]} {data : List Byte}

/-! ## Words of the engine's widths as polynomials -/

/-- A word represents its own polynomial and no other (R5). -/
theorem represents_iff {w : Nat} {v : BitVec w} : Represents v p ↔ p = poly v := by
  refine ⟨fun hp => ?_, fun hp => hp ▸ represents_poly v⟩
  ext k
  exact (hp k).trans (represents_poly v k).symm

/-- Putting `u` above the `w` bits of `v` multiplies it by `x^w`. -/
theorem poly_append {l w : Nat} (u : BitVec l) (v : BitVec w) :
    poly (u ++ v) = poly u * X ^ w + poly v := by
  ext k
  rw [coeff_add, coeff_mul_X_pow', coeff_poly, coeff_poly, coeff_poly, BitVec.getLsbD_append]
  by_cases hk : k < w
  · simp [hk, Nat.not_le_of_lt hk]
  · simp [hk, Nat.le_of_not_lt hk]

/-- Zero extension keeps the polynomial (R6). -/
theorem poly_setWidth {l w : Nat} (hlw : l ≤ w) (v : BitVec l) : poly (v.setWidth w) = poly v := by
  ext k
  rw [coeff_poly, coeff_poly, BitVec.getLsbD_setWidth]
  by_cases hk : k < w
  · simp [hk]
  · simp [hk, BitVec.getLsbD_of_ge v k (hlw.trans (Nat.le_of_not_lt hk))]

/-- A word whose polynomial has degree below `w` fits `w` bits. -/
theorem setWidth_setWidth_of_degree_lt {w : Nat} (hr : (poly r).degree < w) :
    (r.setWidth w).setWidth 32 = r := by
  refine BitVec.eq_of_getLsbD_eq fun k hk => ?_
  rw [BitVec.getLsbD_setWidth, BitVec.getLsbD_setWidth]
  by_cases hkw : k < w
  · simp [hk, hkw]
  · have hzero := (degree_lt_iff_coeff_zero _ _).1 hr k (Nat.le_of_not_lt hkw)
    rw [coeff_poly] at hzero
    simp [hkw, bitCoeff_injective (hzero.trans bitCoeff_false.symm)]

/-- `AND MASK` keeps bits 23:0 (R18). -/
theorem and_mask (v : Word) : v &&& Config.mask = (v.setWidth 24).setWidth 32 :=
  (BitVec.and_setWidth_allOnes 8 24 v).trans (BitVec.setWidth_eq_append (by decide)).symm

/-- `zext_32(i) << 24` is the byte above 24 zero bits (R62). -/
theorem setWidth_shiftLeft_eq_append (i : Byte) : i.setWidth 32 <<< 24 = i ++ 0#24 := by
  have happend := BitVec.setWidth_append_eq_shiftLeft_setWidth_or (w'' := 32) (b := i) (b' := 0#24)
  rw [BitVec.setWidth_zero, BitVec.or_zero, BitVec.setWidth_eq] at happend
  exact happend.symm

/-! ## The table (R62, R63) -/

theorem gen_ne_zero : Config.gen ≠ 0 := by decide

theorem deg_gen : deg Config.gen = some 24 := by decide

theorem degree_poly_gen : (poly Config.gen).degree = 24 := degree_poly_of_deg deg_gen

/-- Dividing `i << 24` by `G` leaves the table's entry: the remainder has degree below 24, so MASK
removes nothing (R63). -/
theorem exists_pdivrem_genTable (i : Byte) :
    ∃ q, pdivrem (i.setWidth 32 <<< 24) Config.gen = some (q, (genTable i).setWidth 32) := by
  obtain ⟨q, r, hqr⟩ := exists_pdivrem (i.setWidth 32 <<< 24) gen_ne_zero
  have hentry : genTable i = r.setWidth 24 := by
    rw [genTable, Config.genDegree, prem_of_pdivrem hqr]
    dsimp only
    rw [and_mask, BitVec.setWidth_setWidth_of_le _ (by decide), BitVec.setWidth_eq]
  have hdegree : (poly r).degree < 24 := degree_poly_gen ▸ (poly_of_pdivrem gen_ne_zero hqr).2
  exact ⟨q, by rw [hqr, hentry, setWidth_setWidth_of_degree_lt hdegree]⟩

theorem prem_genTable (i : Byte) :
    prem (i.setWidth 32 <<< 24) Config.gen = some ((genTable i).setWidth 32) := by
  obtain ⟨q, hq⟩ := exists_pdivrem_genTable i
  exact prem_of_pdivrem hq

/-- A word whose product with `G` fits has at most 8 bits (R63). -/
theorem toNat_lt_of_productFits_gen (hq : ProductFits q Config.gen) : q.toNat < 256 := by
  by_cases hzero : q = 0
  · simp [hzero]
  · obtain ⟨dq, hdq⟩ := exists_deg hzero
    have hle := hq dq 24 hdq deg_gen
    exact Nat.lt_pow_two_of_testBit (n := 8) _ fun k hk =>
      (deg_eq_some_iff.1 hdq).above k (by omega)

/-! ## Polynomials modulo `G` -/

/-- The residue class modulo `G` of the polynomial a word of any width stands for. -/
noncomputable def crcClass {w : Nat} (v : BitVec w) : AdjoinRoot (poly Config.gen) :=
  AdjoinRoot.mk _ (poly v)

theorem crcClass_xor {w : Nat} (u v : BitVec w) :
    crcClass (u ^^^ v) = crcClass u + crcClass v := by
  rw [crcClass, poly_xor, map_add, crcClass, crcClass]

theorem crcClass_append {l w : Nat} (u : BitVec l) (v : BitVec w) :
    crcClass (u ++ v) = crcClass u * AdjoinRoot.root _ ^ w + crcClass v := by
  rw [crcClass, poly_append, map_add, map_mul, map_pow, AdjoinRoot.mk_X, crcClass, crcClass]

/-- A 24-bit word in the class of `f` is the remainder of `f` by `G`. -/
theorem poly_eq_modByMonic (hf : crcClass c = AdjoinRoot.mk _ f) :
    poly c = f %ₘ poly Config.gen := by
  have hmonic := monic_poly gen_ne_zero
  have hdegree : (poly c).degree < (poly Config.gen).degree := by
    rw [degree_poly_gen]
    exact degree_poly_lt c
  rw [← modByMonic_eq_of_dvd_sub hmonic (AdjoinRoot.mk_eq_mk.1 hf),
    (modByMonic_eq_self_iff hmonic).2 hdegree]

/-- Words of 24 bits are told apart by their classes. -/
theorem crcClass_injective : Function.Injective (crcClass (w := 24)) := fun _ _ huv =>
  poly_injective ((poly_eq_modByMonic huv).trans (poly_eq_modByMonic rfl).symm)

/-- `TABLE[i]` is `i * x^24` modulo `G` (R62). -/
theorem crcClass_genTable (i : Byte) :
    crcClass (genTable i) = crcClass i * AdjoinRoot.root _ ^ 24 := by
  obtain ⟨q, hq⟩ := exists_pdivrem_genTable i
  have hsum := (poly_of_pdivrem gen_ne_zero hq).1
  rw [poly_setWidth (by decide), setWidth_shiftLeft_eq_append, poly_append, poly_zero,
    add_zero] at hsum
  have hclass := congrArg (AdjoinRoot.mk (poly Config.gen)) hsum
  rwa [map_add, map_mul, AdjoinRoot.mk_self, mul_zero, zero_add, map_mul, map_pow,
    AdjoinRoot.mk_X] at hclass

/-- `genTable` is linear (R63). -/
theorem genTable_xor (i j : Byte) : genTable (i ^^^ j) = genTable i ^^^ genTable j :=
  crcClass_injective (by simp only [crcClass_genTable, crcClass_xor, add_mul])

theorem genTable_zero : genTable 0 = 0 := by
  simpa using genTable_xor 0 0

/-! ## The fold (R66) -/

/-- The fold within 24 bits: the high byte leaves through the index alone. -/
theorem crcFold_eq (table : Vector Crc Config.tableSize) (c : Crc) (d : Byte) :
    crcFold table c d = c <<< 8 ^^^ tableEntry table (d ^^^ highByte c) := by
  rw [crcFold, BitVec.setWidth_xor, BitVec.setWidth_shiftLeft_of_le (by decide),
    BitVec.setWidth_setWidth_of_le _ (by decide), BitVec.setWidth_setWidth_of_le _ (by decide),
    BitVec.setWidth_eq, BitVec.setWidth_eq]

/-- Shifting by a byte drops the high byte and appends a zero byte. -/
theorem shiftLeft_eq_append (c : Crc) : c <<< 8 = c.extractLsb' 0 16 ++ 0#8 := by
  refine BitVec.eq_of_getLsbD_eq fun k hk => ?_
  rw [BitVec.getLsbD_shiftLeft, BitVec.getLsbD_append, BitVec.getLsbD_extractLsb']
  by_cases hlow : k < 8
  · simp [hlow]
  · simp [hk, hlow, show k - 8 < 16 by omega]

/-- `fold(c, d) = (c * x^8 + d * x^24) mod G` over the built table (R70). -/
theorem crcClass_crcFold (c : Crc) (d : Byte) : crcClass (crcFold builtTable c d) =
    crcClass c * AdjoinRoot.root _ ^ 8 + crcClass d * AdjoinRoot.root _ ^ 24 := by
  have hsplit : crcClass c =
      crcClass (highByte c) * AdjoinRoot.root _ ^ 16 + crcClass (c.extractLsb' 0 16) := by
    rw [← crcClass_append]
    exact congrArg crcClass (BitVec.extractLsb'_append_extractLsb' (w := 8) (len := 16)).symm
  have hzero : crcClass 0#8 = 0 := by simp [crcClass]
  rw [crcFold_eq, crcClass_xor, shiftLeft_eq_append, crcClass_append, hzero, tableEntry_builtTable,
    crcClass_genTable, crcClass_xor, hsplit]
  ring

/-- Folding the accumulator's own high byte shifts it out, since `TABLE[0]` is 0. -/
theorem crcFold_highByte (c : Crc) : crcFold builtTable c (highByte c) = c <<< 8 := by
  rw [crcFold_eq, BitVec.xor_self, tableEntry_builtTable]
  exact (congrArg _ genTable_zero).trans BitVec.xor_zero

theorem highByte_shiftLeft_8 (c : Crc) : highByte (c <<< 8) = midByte c := by
  rw [shiftLeft_eq_append, highByte, midByte, BitVec.extractLsb'_append_eq_of_le (by decide),
    BitVec.extractLsb'_extractLsb'_of_le (by decide)]

theorem midByte_shiftLeft_8 (c : Crc) : midByte (c <<< 8) = lowByte c := by
  rw [shiftLeft_eq_append, midByte, lowByte, BitVec.extractLsb'_append_eq_of_le (by decide),
    BitVec.extractLsb'_extractLsb'_of_le (by decide)]

/-- Folding an accumulator's three bytes, high, middle, low, shifts all of it out (R75). -/
theorem foldBytes_checkBytes (c : Crc) : foldBytes builtTable c (checkBytes c) = 0 := by
  have hhigh : crcFold builtTable c (highByte c) = c <<< 8 := crcFold_highByte c
  have hmid : crcFold builtTable (c <<< 8) (midByte c) = c <<< 8 <<< 8 := by
    rw [← highByte_shiftLeft_8, crcFold_highByte]
  have hlow : crcFold builtTable (c <<< 8 <<< 8) (lowByte c) = c <<< 8 <<< 8 <<< 8 := by
    rw [← midByte_shiftLeft_8, ← highByte_shiftLeft_8, crcFold_highByte]
  rw [checkBytes, foldBytes_cons, foldBytes_cons, foldBytes_cons, foldBytes_nil, hhigh, hmid, hlow,
    ← BitVec.shiftLeft_add, ← BitVec.shiftLeft_add]
  exact BitVec.shiftLeft_eq_zero (by decide)

/-! ## The hash (R68 to R70) -/

@[simp] theorem crcHash_nil : crcHash [] = 0 := rfl

/-- The hash folds each further byte (R68). -/
theorem crcHash_append_singleton (data : List Byte) (d : Byte) :
    crcHash (data ++ [d]) = crcFold builtTable (crcHash data) d := foldBytes_append _ _ _ _

/-- Folding into a cleared accumulator reads the table (R67). -/
theorem crcFold_zero (d : Byte) : crcFold builtTable 0 d = genTable d := by
  rw [crcFold_eq, tableEntry_builtTable]
  simp [highByte]

/-- The low 24 bits of the source's unmasked accumulator are folded as the accumulator is (R69). -/
theorem setWidth_foldWide (table : Vector Crc Config.tableSize) (c : Word) (d : Byte) :
    (foldWide table c d).setWidth 24 = crcFold table (c.setWidth 24) d := by
  rw [crcFold_eq, foldWide, BitVec.setWidth_xor, BitVec.setWidth_shiftLeft_of_le (by decide),
    BitVec.setWidth_setWidth_of_le _ (by decide), BitVec.setWidth_eq, highByte,
    BitVec.extractLsb'_setWidth_of_le (by decide)]

/-- A further byte is the message's lowest eight bits (R70). -/
theorem messageBit_append_singleton_of_lt {k : Nat} (hk : k < 8) (data : List Byte) (d : Byte) :
    messageBit (data ++ [d]) k = d.getLsbD k := by
  simp [messageBit, Nat.div_eq_of_lt hk, Nat.mod_eq_of_lt hk]

/-- A further byte moves the message's bits up by eight (R70). -/
theorem messageBit_append_singleton_add (data : List Byte) (d : Byte) (k : Nat) :
    messageBit (data ++ [d]) (k + 8) = messageBit data k := by
  simp only [messageBit, List.reverse_append, List.reverse_singleton, List.singleton_append,
    Nat.add_div_right k (by decide : 0 < 8), Nat.add_mod_right, List.getElem?_cons_succ]

/-- A further byte multiplies the message by `x^8` and is added below it (R70). -/
theorem isMessagePoly_append_singleton (hm : IsMessagePoly data m) (d : Byte) :
    IsMessagePoly (data ++ [d]) (m * X ^ 8 + poly d) := by
  intro k
  rw [coeff_add, coeff_mul_X_pow', coeff_poly]
  by_cases hk : k < 8
  · simp [hk, messageBit_append_singleton_of_lt, bitCoeff]
  · obtain ⟨j, rfl⟩ := Nat.exists_eq_add_of_le' (Nat.le_of_not_lt hk)
    simp [hm j, messageBit_append_singleton_add]

theorem IsMessagePoly.unique (hm : IsMessagePoly data m) (hn : IsMessagePoly data n) : m = n := by
  ext k
  rw [hm k, hn k]

/-- The hash is the message times `x^24` modulo `G`, by induction on the bytes (R70). -/
theorem crcClass_crcHash (hm : IsMessagePoly data m) :
    crcClass (crcHash data) = AdjoinRoot.mk _ (m * X ^ 24) := by
  induction data using List.reverseRecOn generalizing m with
  | nil =>
    obtain rfl : m = 0 := hm.unique fun k => by simp [messageBit]
    simp [crcClass]
  | append_singleton data d ih =>
    obtain ⟨n, hn⟩ := exists_messagePoly data
    obtain rfl := hm.unique (isMessagePoly_append_singleton hn d)
    rw [crcHash_append_singleton, crcClass_crcFold, ih hn, crcClass, ← AdjoinRoot.mk_X, ← map_pow,
      ← map_pow, ← map_mul, ← map_mul, ← map_add]
    ring_nf

end

/-! ## The byte accessors -/

theorem highByte_v24 (s : State) : highByte (v24 s) = s.opa.extractLsb' 16 8 :=
  BitVec.extractLsb'_extractLsb'_of_le (by decide)

theorem midByte_v24 (s : State) : midByte (v24 s) = s.opa.extractLsb' 8 8 :=
  BitVec.extractLsb'_extractLsb'_of_le (by decide)

theorem lowByte_v24 (s : State) : lowByte (v24 s) = s.opa.extractLsb' 0 8 :=
  BitVec.extractLsb'_extractLsb'_of_le (by decide)

/-- A 24-bit value is its three bytes put together (R74). -/
theorem setWidth_bytes_or (c : Crc) :
    (highByte c).setWidth 32 <<< 16 ||| (midByte c).setWidth 32 <<< 8 ||| (lowByte c).setWidth 32 =
      c.setWidth 32 := by
  have hhigh : highByte c ++ midByte c = c.extractLsb' 8 16 :=
    BitVec.extractLsb'_append_extractLsb'_eq_extractLsb' rfl
  have hall : c.extractLsb' 8 16 ++ lowByte c = c := BitVec.extractLsb'_append_extractLsb'
  calc _ = (highByte c ++ midByte c ++ lowByte c).setWidth 32 :=
        BitVec.setWidth_append_append_eq_shiftLeft_setWidth_or.symm
    _ = c.setWidth 32 := by rw [hhigh, hall]

end Sys2Proof.Machine

section
open Sys2Proof Sys2Proof.Machine

/-- Settles O14, by the division that builds the entry. -/
theorem tableEntryIsRemainder : Obligations.TableEntryIsRemainder := by
  intro i
  obtain ⟨q, hq⟩ := exists_pdivrem_genTable i
  obtain ⟨hfits, hsum, -⟩ := (pdivrem_eq_some_iff gen_ne_zero).1 hq
  exact ⟨prem_of_pdivrem hq, q, toNat_lt_of_productFits_gen hfits, hsum⟩

/-- Settles O15: multiplication by `x^24` modulo `G` is linear. -/
theorem tableIsLinear : Obligations.TableIsLinear :=
  ⟨genTable_xor, genTable_zero, by decide⟩

/-- Settles O18: `TABLE[0]` is 0, so a zero byte leaves a cleared accumulator cleared. -/
theorem leadingZerosDoNotChangeAHash : Obligations.LeadingZerosDoNotChangeAHash := by
  intro n data
  have hzero : crcFold builtTable 0 0 = 0 := (crcFold_zero 0).trans genTable_zero
  induction n with
  | zero => rfl
  | succ n ih =>
    rw [List.replicate_succ, List.cons_append, crcHash, foldBytes_cons, hzero]
    exact ih

/-- Settles O19: the low 24 bits of the wide accumulator are the accumulator after every byte. -/
theorem maskingOnlyAtTheEndIsTheSame : Obligations.MaskingOnlyAtTheEndIsTheSame := by
  intro data
  have hlow : crcHash data = (data.foldl (foldWide builtTable) 0).setWidth 24 :=
    List.foldl_hom (BitVec.setWidth 24) (init := 0#32) fun c d =>
      (setWidth_foldWide builtTable c d).symm
  rw [crcHashWide, and_mask, hlow]

/-- Settles O20: the hash has 24 bits and the class of `M * x^24`, so it is the remainder. -/
theorem hashIsPolynomialRemainder : Obligations.HashIsPolynomialRemainder := by
  intro data m h g hm hh hg
  rw [represents_iff.1 hh, represents_iff.1 hg]
  exact poly_eq_modByMonic (crcClass_crcHash hm)

/-- Settles O21: the check bytes shift the accumulator they are taken from out. -/
theorem frameHashesToZero : Obligations.FrameHashesToZero := by
  intro data
  rw [frameOf, crcHash, foldBytes_append]
  exact foldBytes_checkBytes (crcHash data)

/-- Settles O29: outside INIT the entry TREAD reads is the remainder PREM leaves. -/
theorem treadAgreesWithPrem : Obligations.TreadAgreesWithPrem := by
  intro s u hinv hs hu hopa hopb
  have hentry := hinv.table (by simp [hs]) (s.opa.extractLsb' 0 8)
  have hprem := exec_prem_of_ready hu
  rw [hopa, hopb, prem_genTable] at hprem
  exact ⟨_, _, exec_tread_of_ready hs, hprem, congrArg zext32 hentry⟩

/-- Settles O35: the three results are the bytes of OPA[23:0]. -/
theorem accessorsPutOpaTogether : Obligations.AccessorsPutOpaTogether := by
  intro s hp
  refine ⟨_, _, _, exec_highb_of_ready hp, exec_midb_of_ready hp, exec_lowb_of_ready hp, ?_⟩
  calc _ = (v24 s).setWidth 32 := setWidth_bytes_or (v24 s)
    _ = s.opa &&& Config.mask := by
      rw [and_mask, v24, BitVec.setWidth_eq_extractLsb' (by decide : 24 ≤ 32)]

/-- Settles O16: of the shifted accumulator, bits 23:8 are its low 16 bits and bits 7:0 are zero. -/
theorem foldWrittenOut : Obligations.FoldWrittenOut := by
  intro table c d
  rw [crcFold_eq, shiftLeft_eq_append, highByte]

/-- Settles O17: `crcHash` is a left fold from a cleared accumulator. -/
theorem hashIsTheFoldOfTheBytes : Obligations.HashIsTheFoldOfTheBytes :=
  ⟨crcHash_nil, crcHash_append_singleton, crcFold_zero⟩

/-- Settles O28, by what TREAD answers in READY. -/
theorem treadReadsAnEntry : Obligations.TreadReadsAnEntry :=
  ⟨decode_encode .tread, fun s hp => ⟨_, exec_tread_of_ready hp, rfl, changesOnlyRes0_useOpa _ s⟩⟩

/-- Settles O30, by what CCLR answers in READY. -/
theorem cclrClearsTheAccumulator : Obligations.CclrClearsTheAccumulator :=
  ⟨decode_encode .cclr, fun _ hp => exec_cclr_of_ready hp⟩

/-- Settles O31, by what CFOLD answers in READY. -/
theorem cfoldFoldsOneByte : Obligations.CfoldFoldsOneByte :=
  ⟨decode_encode .cfold, fun _ hp => ⟨_, exec_cfold_of_ready hp, rfl, rfl⟩⟩

/-- Settles O32: the high byte of OPA[23:0] is a byte of OPA. -/
theorem highbGivesBits23To16 : Obligations.HighbGivesBits23To16 :=
  ⟨decode_encode .highb, fun s hp => ⟨_, exec_highb_of_ready hp,
    congrArg zext32 (highByte_v24 s), changesOnlyRes0_useOpa _ s⟩⟩

/-- Settles O33: the middle byte of OPA[23:0] is a byte of OPA. -/
theorem midbGivesBits15To8 : Obligations.MidbGivesBits15To8 :=
  ⟨decode_encode .midb, fun s hp => ⟨_, exec_midb_of_ready hp,
    congrArg zext32 (midByte_v24 s), changesOnlyRes0_useOpa _ s⟩⟩

/-- Settles O34: the low byte of OPA[23:0] is a byte of OPA. -/
theorem lowbGivesBits7To0 : Obligations.LowbGivesBits7To0 :=
  ⟨decode_encode .lowb, fun s hp => ⟨_, exec_lowb_of_ready hp,
    congrArg zext32 (lowByte_v24 s), changesOnlyRes0_useOpa _ s⟩⟩

end

/-! # Proofs of the exceptions family (60_exceptions.md) -/

namespace Sys2Proof.Machine

variable {s t : State} {i : Instr} {w : Word}

/-! ## The operand checks -/

theorem pos_eq_none_iff : pos s = none ↔ 32 ≤ s.opb.toNat := by
  simp [pos]

/-- The one operand check of a command fails, with the cause of its fault (R77, R86). -/
inductive FailsCheck : Instr → State → FaultCause → Prop where
  | degree {s : State} (h : s.opa = 0) : FailsCheck .degree s .invalidOperand
  | divrem {s : State} (h : s.opb = 0) : FailsCheck .divrem s .divisionByZero
  | prem {s : State} (h : s.opb = 0) : FailsCheck .prem s .divisionByZero
  | pbit {s : State} (h : 32 ≤ s.opb.toNat) : FailsCheck .pbit s .operandRange

/-- What the operand check decides: fault entry, which changes nothing else of the block (R82), or a
command that completes, with STATUS, TABLE and the phase as before. -/
inductive CheckedEffect (i : Instr) (s t : State) : Prop where
  | fault (c : FaultCause) (hc : FailsCheck i s c) (ht : SameBlock (raiseFault c s) t)
  | completes (hpass : ∀ c, ¬ FailsCheck i s c) (ht : SameControl s t)

/-- In READY every command answers what its operand check decides. -/
theorem exec_checked (i : Instr) (hp : s.phase = .ready) :
    ∃ t, exec i s = .next t ∧ CheckedEffect i s t := by
  cases i with
  | pbit =>
    rw [exec_pbit_of_ready hp]
    cases hpos : pos s with
    | none => exact ⟨_, rfl, .fault _ (.pbit (pos_eq_none_iff.1 hpos)) rfl⟩
    | some n =>
      refine ⟨_, rfl, .completes (fun _ hc => ?_) ⟨rfl, rfl, rfl, rfl⟩⟩
      cases hc with | pbit h => simp [pos_eq_none_iff.2 h] at hpos
  | degree =>
    rw [exec_degree_of_ready hp]
    cases hdeg : deg s.opa with
    | none => exact ⟨_, rfl, .fault _ (.degree (deg_eq_none_iff.1 hdeg)) rfl⟩
    | some n =>
      refine ⟨_, rfl, .completes (fun _ hc => ?_) ⟨rfl, rfl, rfl, rfl⟩⟩
      cases hc with | degree h => simp [deg_eq_none_iff.2 h] at hdeg
  | divrem =>
    rw [exec_divrem_of_ready hp]
    cases hdiv : pdivrem s.opa s.opb with
    | none => exact ⟨_, rfl, .fault _ (.divrem (pdivrem_eq_none_iff.1 hdiv)) rfl⟩
    | some qr =>
      refine ⟨_, rfl, .completes (fun _ hc => ?_) ⟨rfl, rfl, rfl, rfl⟩⟩
      cases hc with | divrem h => simp [pdivrem_eq_none_iff.2 h] at hdiv
  | prem =>
    rw [exec_prem_of_ready hp]
    cases hrem : prem s.opa s.opb with
    | none => exact ⟨_, rfl, .fault _ (.prem (prem_eq_none_iff.1 hrem)) rfl⟩
    | some r =>
      refine ⟨_, rfl, .completes (fun _ hc => ?_) ⟨rfl, rfl, rfl, rfl⟩⟩
      cases hc with | prem h => simp [prem_eq_none_iff.2 h] at hrem
  | pmul => exact ⟨_, exec_pmul_of_ready hp, .completes nofun ⟨rfl, rfl, rfl, rfl⟩⟩
  | tread => exact ⟨_, exec_tread_of_ready hp, .completes nofun ⟨rfl, rfl, rfl, rfl⟩⟩
  | cclr => exact ⟨_, exec_cclr_of_ready hp, .completes nofun ⟨rfl, rfl, rfl, rfl⟩⟩
  | cfold => exact ⟨_, exec_cfold_of_ready hp, .completes nofun ⟨rfl, rfl, rfl, rfl⟩⟩
  | highb => exact ⟨_, exec_highb_of_ready hp, .completes nofun ⟨rfl, rfl, rfl, rfl⟩⟩
  | midb => exact ⟨_, exec_midb_of_ready hp, .completes nofun ⟨rfl, rfl, rfl, rfl⟩⟩
  | lowb => exact ⟨_, exec_lowb_of_ready hp, .completes nofun ⟨rfl, rfl, rfl, rfl⟩⟩

theorem exec_checkedEffect (hp : s.phase = .ready) (h : exec i s = .next t) :
    CheckedEffect i s t := by
  obtain ⟨u, hu, hchecked⟩ := exec_checked i hp
  cases hu.symm.trans h
  exact hchecked

/-- A write to CMD that ends in FAULTED took a fault, and changed nothing else of the block (R82). -/
theorem issueCommand_sameBlock_of_faulted (hp : s.phase = .ready) (h : issueCommand w s = .next t)
    (ht : t.phase = .faulted) : ∃ c, SameBlock (raiseFault c s) t := by
  obtain ⟨hn, -⟩ | ⟨-, -, hw⟩ | ⟨i, -, -, hw⟩ := issueCommand_cases w s
  · exact absurd hp hn
  · cases hw.symm.trans h
    exact ⟨.illegalCommand, rfl⟩
  · cases exec_checkedEffect hp (hw.symm.trans h) with
    | fault c _ hblock => exact ⟨c, hblock⟩
    | completes _ hc => cases ht.symm.trans (hc.phase.trans hp)

/-! ## A block that takes no command -/

/-- The phase and every register of the block but the operands are as before. -/
structure KeepsResults (s t : State) : Prop extends SameControl s t where
  res0 : t.res0 = s.res0
  res1 : t.res1 = s.res1
  crc : t.crc = s.crc

theorem KeepsResults.refl (s : State) : KeepsResults s s := ⟨.refl s, rfl, rfl, rfl⟩

/-- Outside READY a line other than a reset reaches no more of the block than OPA and OPB (R84). -/
theorem LineEffect.keepsResults (h : LineEffect s t) (hp : s.phase ≠ .ready) :
    KeepsResults s t := by
  cases h with
  | opa v => exact ⟨⟨rfl, rfl, rfl, rfl⟩, rfl, rfl, rfl⟩
  | opb v => exact ⟨⟨rfl, rfl, rfl, rfl⟩, rfl, rfl, rfl⟩
  | cmd w t h =>
    cases (issueCommand_of_not_ready hp w).symm.trans h
    exact .refl s
  | host h => exact ⟨⟨rfl, rfl, rfl, rfl⟩, rfl, rfl, rfl⟩

/-- In FAULTED every step but a reset keeps every register of the block but the operands (R84,
R85). -/
theorem step_keepsResults_of_faulted (hp : s.phase = .faulted) (hnext : NoResetNext s)
    (h : step s = .next t) : KeepsResults s t := by
  obtain ⟨hinit, -⟩ | ⟨-, -, rfl⟩ | ⟨l, rest, -, hprog, hl⟩ := step_cases h
  · cases hp.symm.trans hinit
  · exact .refl t
  · obtain ⟨rfl, -⟩ | ⟨-, he⟩ := performLine_cases hl
    · simp [NoResetNext, hprog] at hnext
    · obtain ⟨hcontrol, hres0, hres1, hcrc⟩ := he.keepsResults (by simp [hp])
      exact ⟨⟨hcontrol.fault, hcontrol.cause, hcontrol.table, hcontrol.phase⟩, hres0, hres1, hcrc⟩

/-! ## Failed states -/

@[simp] theorem hostAfterUse_true (h : HostState) : hostAfterUse true h = h := by
  simp [hostAfterUse]

/-- Of the host's record a command changes at most the note of a use (R100). -/
theorem CommandEffect.host (h : CommandEffect i s t) :
    ∃ holds, t.host = hostAfterUse holds s.host := by
  have hboth : (useOpb (useOpa s)).host =
      hostAfterUse (s.written.opa && s.written.opb) s.host := by rw [useOpb_useOpa]
  cases h with
  | fault c used huse => obtain rfl | rfl := huse; exacts [⟨_, rfl⟩, ⟨_, hboth⟩]
  | res0 v used huse => obtain rfl | rfl := huse; exacts [⟨_, rfl⟩, ⟨_, hboth⟩]
  | both q r => exact ⟨_, hboth⟩
  | crc v used huse => obtain rfl | rfl := huse; exacts [⟨true, by simp⟩, ⟨_, rfl⟩]

theorem issueCommand_host (h : issueCommand w s = .next t) :
    ∃ holds, t.host = hostAfterUse holds s.host := by
  obtain rfl | ⟨-, rfl | ⟨i, he⟩⟩ := issueCommand_next_cases h
  · exact ⟨true, by simp⟩
  · exact ⟨true, by simp⟩
  · exact he.host

theorem LineEffect.faultCleared (h : LineEffect s t) :
    t.host.faultCleared = s.host.faultCleared := by
  cases h with
  | opa v => rfl
  | opb v => rfl
  | cmd w t h =>
    obtain ⟨holds, hhost⟩ := issueCommand_host h
    rw [hhost]
    rfl
  | host h _ _ _ hcleared => exact hcleared

/-- No line other than a reset clears FAULT, and none takes back the note of a cleared fault. -/
theorem LineEffect.failed (h : LineEffect s t) (hs : Failed s) : Failed t := by
  obtain hfault | hcleared := hs
  · obtain hc | hf := h.control
    · exact .inl (hc.fault.trans hfault)
    · exact .inl hf.fault
  · exact .inr (h.faultCleared.trans hcleared)

/-- A reset notes the fault it clears (log 22). -/
theorem failed_applyReset (hs : Failed s) : Failed (applyReset s) :=
  .inr (by simpa using hs.symm)

theorem step_failed (hs : Failed s) (h : step s = .next t) : Failed t := by
  obtain ⟨-, rfl⟩ | ⟨-, -, rfl⟩ | ⟨l, rest, -, -, hl⟩ := step_cases h
  · exact hs
  · exact hs
  · have hs : Failed (setProgram rest s) := hs
    obtain ⟨-, rfl⟩ | ⟨-, he⟩ := performLine_cases hl
    · exact failed_applyReset hs
    · exact he.failed hs

/-- What every step keeps, every run keeps. -/
theorem run_invariant {P : State → Prop} (hstep : ∀ s t, P s → step s = .next t → P t) {k : Nat}
    (hs : P s) (h : core.run k s = .next t) : P t := by
  induction k generalizing s with
  | zero => cases h; exact hs
  | succ k ih =>
    simp only [Host.Core.run] at h
    split at h
    · next s' hs' => exact ih (hstep s s' hs hs') h
    · cases h
    · cases h

end Sys2Proof.Machine

section
open Sys2Proof Sys2Proof.Machine

/-- Settles O37, by what the operand check decides. -/
theorem commandsFaultExactlyOnTheirCheck : Obligations.CommandsFaultExactlyOnTheirCheck := by
  intro i s t hp h
  cases exec_checkedEffect hp h with
  | fault c hc hblock =>
    have hcause : t.cause = causeCode c := congrArg State.cause hblock
    refine .inl ⟨congrArg State.phase hblock, congrArg State.fault hblock, ?_⟩
    cases hc with
    | degree ha => exact .inl ⟨rfl, ha, hcause⟩
    | divrem hb => exact .inr (.inl ⟨.inl rfl, hb, hcause⟩)
    | prem hb => exact .inr (.inl ⟨.inr rfl, hb, hcause⟩)
    | pbit hb => exact .inr (.inr ⟨rfl, hb, hcause⟩)
  | completes hpass hc =>
    refine .inr ⟨hc.phase.trans hp, hc.fault, hc.cause, ?_, ?_, ?_⟩
    · rintro ⟨rfl, ha⟩; exact hpass _ (.degree ha)
    · rintro ⟨rfl | rfl, hb⟩
      · exact hpass _ (.divrem hb)
      · exact hpass _ (.prem hb)
    · rintro ⟨rfl, hb⟩; exact hpass _ (.pbit hb)

/-- Settles O38: the block is that of fault entry, whose codes are those of R77. -/
theorem faultEntryWritesOnlyStatus : Obligations.FaultEntryWritesOnlyStatus := by
  intro w s t hp h ht
  obtain ⟨c, hblock⟩ := issueCommand_sameBlock_of_faulted hp h ht
  obtain ⟨hlow, hhigh⟩ := causeCode_range c
  exact ⟨causeCode c, hlow, hhigh, hblock⟩

/-- Settles O50: in FAULTED the host's lines reach only OPA and OPB. -/
theorem faultedBlockKeepsItsResults : Obligations.FaultedBlockKeepsItsResults := by
  intro s t hp hnext h
  obtain ⟨⟨hfault, hcause, htable, hphase⟩, hres0, hres1, hcrc⟩ :=
    step_keepsResults_of_faulted hp hnext h
  exact ⟨hphase.trans hp, hfault, hcause, hres0, hres1, hcrc, htable⟩

/-- Settles O55: every step keeps a state failed, so every run does. -/
theorem faultedProgramNeverEndsWell : Obligations.FaultedProgramNeverEndsWell := by
  refine ⟨fun _ => .inl, fun _ _ => step_failed, fun k s t hs h => ?_⟩
  rintro ⟨-, -, -, hgood⟩
  exact hgood (run_invariant (fun _ _ => step_failed) hs h)

/-- Settles O51: only a write to CMD asks for READY. -/
theorem faultedBlockIgnoresCommandsOnly : Obligations.FaultedBlockIgnoresCommandsOnly :=
  fun _ w hp => ⟨issueCommand_of_not_ready (by simp [hp]) w, ⟨_, rfl, rfl, hp⟩, ⟨_, rfl, rfl, hp⟩⟩

end

/-! # Proofs of the reset and hazards family (70_reset_and_hazards.md) -/

namespace Sys2Proof.Machine

variable {s t : State} {l : Line}

/-! ## The record of an unwritten use -/

/-- No line other than a reset takes back the note of a use of a register that held no value. -/
theorem LineEffect.unwrittenUse (h : LineEffect s t) (hs : s.host.unwrittenUse = true) :
    t.host.unwrittenUse = true := by
  cases h with
  | opa v => exact hs
  | opb v => exact hs
  | cmd w t h =>
    obtain ⟨holds, hhost⟩ := issueCommand_host h
    simp [hhost, hostAfterUse, hs]
  | host h _ _ hunwritten => exact hunwritten hs

/-- No line takes the note back: over a reset the host's record goes on (log 12). -/
theorem performLine_unwrittenUse (h : performLine l s = .next t)
    (hs : s.host.unwrittenUse = true) : t.host.unwrittenUse = true := by
  obtain ⟨-, rfl⟩ | ⟨-, he⟩ := performLine_cases h
  · exact hs
  · exact he.unwrittenUse hs

theorem step_unwrittenUse (h : step s = .next t) (hs : s.host.unwrittenUse = true) :
    t.host.unwrittenUse = true := by
  obtain ⟨-, rfl⟩ | ⟨-, -, rfl⟩ | ⟨l, rest, -, -, hl⟩ := step_cases h
  · exact hs
  · exact hs
  · exact performLine_unwrittenUse hl hs

theorem not_endsWell_of_unwrittenUse (hs : s.host.unwrittenUse = true) : ¬ EndsWell s := by
  rintro ⟨-, -, hunused, -⟩
  cases hs.symm.trans hunused

/-! ## Placing a command -/

theorem finishInit_of_init (hp : s.phase = .init) : finishInit s = runInit s := by
  simp [finishInit, hp]

theorem finishInit_phase_ne_init (s : State) : (finishInit s).phase ≠ .init := by
  cases hp : s.phase <;> simp [finishInit, hp]

/-- The step after placing a command word writes the word to CMD, with INIT over and the host's own
lines left as they were (log 9). -/
theorem step_placeCommand (w : Word) (s : State) :
    step (placeCommand w s) = issueCommand w (finishInit s) :=
  step_of_line (s := placeCommand w s) (finishInit_phase_ne_init s) rfl

/-! ## Reset -/

/-- Reset changes nothing right after reset: no fault is there to be noted (R92). -/
theorem applyReset_reset : applyReset State.reset = State.reset := rfl

end Sys2Proof.Machine

section
open Sys2Proof Sys2Proof.Machine

/-- Settles O60: every step keeps the note of an unwritten use, which a good end excludes, and a
read of a register that holds no value makes it. -/
theorem unwrittenUseIsRecordedForGood : Obligations.UnwrittenUseIsRecordedForGood := by
  refine ⟨fun s t hs h => ?_, fun r s hr => ⟨deliverRead r s, rfl, by simp [hr]⟩⟩
  have ht : t.host.unwrittenUse = true := step_unwrittenUse h hs
  exact ⟨ht, not_endsWell_of_unwrittenUse ht⟩

/-- Settles O6: the placed word is the host's next write to CMD, and it decodes to the command. -/
theorem placedCommandRunsFirst : Obligations.PlacedCommandRunsFirst := by
  intro w i hw
  rw [State.withFetchWord, tableWord_toNat, step_placeCommand, issueCommand_of_decode hw,
    finishInit_of_init rfl]

/-- Settles O45: reset leaves the values of `State.reset`, and of the host's record it writes the
note of a cleared fault alone. -/
theorem resetLeavesTheStatedValues : Obligations.ResetLeavesTheStatedValues :=
  ⟨rfl, by decide, rfl, rfl, fun _ => ⟨rfl, rfl⟩⟩

/-- Settles O46: the step is initialisation, and every entry of the table it builds is `genTable` of
its index. -/
theorem initBuildsTheTableAndHoldsTheHost : Obligations.InitBuildsTheTableAndHoldsTheHost :=
  fun s hp => ⟨runInit s, step_of_init hp, tableEntry_builtTable, rfl⟩

/-- Settles O48: the table was built before the reset, and the step after it builds it again. -/
theorem resetRebuildsTheSameTable : Obligations.ResetRebuildsTheSameTable := by
  intro s t hs hp h i
  cases (step_of_init (s := applyReset s) rfl).symm.trans h
  calc tableEntry builtTable i
      _ = genTable i := tableEntry_builtTable i
      _ = tableEntry s.table i := (hs.table hp i).symm

/-- Settles O53: reset establishes the invariant in every state, `State.reset` included. -/
theorem resetSatisfiesTheBlockInvariant : Obligations.ResetSatisfiesTheBlockInvariant := by
  have hinv := blockInv_applyReset State.reset
  rwa [applyReset_reset] at hinv

end
